-- ==== Sys2Proof/Word.lean ====
section
/-! DEFINITION. The two word widths of the block: an 8-bit byte and a 16-bit telemetry field (R9, R34). -/

namespace Sys2Proof

/-- A byte is 8 bits (R9). -/
abbrev Byte := BitVec 8

/-- The 16-bit quantities of the telemetry snapshot (R34). -/
abbrev Half := BitVec 16

end Sys2Proof
end

