-- ==== Sys2Proof/Syntax.lean ====
section
/-! DEFINITION. The operations of the block, one constructor per row of spec/opcode_table.json (R2, R79), and the
operand types they carry. -/

namespace Sys2Proof

/-- The two variants of the CRC-8 generator (R100). -/
inductive Variant where
  /-- The bus variant: polynomial 0x07, seed 0xFF, most significant bit first. -/
  | pec
  /-- The sensor variant: Dallas/Maxim, seed 0x00, least significant bit first. -/
  | ow
  deriving DecidableEq, Repr

/-- The form of an accepted message: without (`short`) or with (`long`) its integrity byte (R76, R150). -/
inductive Form where
  | short
  | long
  deriving DecidableEq, Repr

/-- `TelemetrySnapshot.temperature` (R34). -/
structure Temperature where
  integerPart : Byte
  fractionalPart : Half
  rawRegister : Half
  deriving DecidableEq, Repr

/-- `TelemetrySnapshot.humidity` (R34). -/
structure Humidity where
  temperature : Half
  humidity : Half
  deriving DecidableEq, Repr

/-- The telemetry record (R34). -/
structure Snapshot where
  temperature : Temperature
  humidity : Humidity
  depth : Half
  deriving DecidableEq, Repr

/-- The operations (R2, R79). A one-wire bit is a `Bool`, `true` for 1. -/
inductive Instr where
  /-- WriteRequested (R121). -/
  | wr
  /-- ByteReceived (R122). -/
  | rx (b : Byte)
  /-- WriteComplete (R123). -/
  | wc
  /-- ReadRequested (R125). -/
  | rd
  /-- StopCondition (R126). -/
  | sp
  /-- The length and integrity predicate (R124) for an expected length. -/
  | accept (expected : Nat)
  /-- SETCHANNELS on the message in rxBuffer (R151). -/
  | setChannels (form : Form)
  /-- GET_TEMP (R152). -/
  | getTemp
  /-- GET_AIR_TEMP_HUMIDITY (R153). -/
  | getAirTempHumidity
  /-- GET_DEPTH (R154). -/
  | getDepth
  /-- The unrecognized command (R155). -/
  | unrecognized
  /-- accumulate, variant PEC (R103). -/
  | accumulatePec (s b : Byte)
  /-- crc, variant PEC (R104). -/
  | crcPec (bytes : List Byte)
  /-- append, variant PEC (R105). -/
  | appendPec (buf : List Byte) (len : Nat)
  /-- verify, variant PEC (R106). -/
  | verifyPec (buf : List Byte) (len : Nat)
  /-- accumulate, variant OW (R103). -/
  | accumulateOw (s b : Byte)
  /-- crc, variant OW (R104). -/
  | crcOw (bytes : List Byte)
  /-- append, variant OW (R105). -/
  | appendOw (buf : List Byte) (len : Nat)
  /-- verify, variant OW (R106). -/
  | verifyOw (buf : List Byte) (len : Nat)
  /-- The reset slot (R172). -/
  | owReset
  /-- The write slot (R173). -/
  | owWriteBit (b : Bool)
  /-- The read slot (R174). -/
  | owReadBit
  /-- writeByte (R175). -/
  | owWriteByte (v : Byte)
  /-- readByte (R176). -/
  | owReadByte
  /-- AcquireTemperature (R177). -/
  | acquireTemperature
  /-- Sending the function code skip ROM (R77). -/
  | skipRom
  /-- Sending the function code convert temperature (R77). -/
  | convertT
  /-- Sending the function code read scratchpad (R77). -/
  | readScratchpad
  /-- QueryError (R211). -/
  | qerr
  /-- ClearError (R212). -/
  | clr
  /-- SetEnable (R213). -/
  | en (v : Bool)
  /-- PublishSnapshot (R214). -/
  | pub (snap : Snapshot)
  /-- ReadChannels (R215). -/
  | chan
  /-- Reset (R260). -/
  | rst
  deriving DecidableEq, Repr

end Sys2Proof
end

