-- ==== Sys2Proof/WellFormed.lean ====
section
/-! DEFINITION. Which operand values an operation admits (R105, R106: a buffer of at least len + 1 bytes) and the stream form can carry
(log 1: a length is one byte). -/

namespace Sys2Proof

/-- A length the stream form can carry (log 1). -/
def lengthFits (n : Nat) : Bool := decide (n < 256)

/-- The operands of append and verify: "a buffer buf with at least len + 1 bytes" (R105, R106). -/
def bufferFits (buf : List Byte) (len : Nat) : Bool := decide (len < buf.length)

/-- The well-formedness of an operation. -/
def Instr.wellFormed : Instr → Bool
  | .accept l => lengthFits l
  | .crcPec bytes => lengthFits bytes.length
  | .crcOw bytes => lengthFits bytes.length
  | .appendPec buf len => lengthFits buf.length && bufferFits buf len
  | .verifyPec buf len => lengthFits buf.length && bufferFits buf len
  | .appendOw buf len => lengthFits buf.length && bufferFits buf len
  | .verifyOw buf len => lengthFits buf.length && bufferFits buf len
  | .wr | .rx _ | .wc | .rd | .sp | .setChannels _ | .getTemp | .getAirTempHumidity | .getDepth | .unrecognized => true
  | .accumulatePec _ _ | .accumulateOw _ _ => true
  | .owReset | .owWriteBit _ | .owReadBit | .owWriteByte _ | .owReadByte | .acquireTemperature => true
  | .skipRom | .convertT | .readScratchpad => true
  | .qerr | .clr | .en _ | .pub _ | .chan | .rst => true

end Sys2Proof
end

