-- ==== Sys2Proof/Decode.lean ====
section
/-! DEFINITION. The decoder of the operation stream, total on any bytes, and its encoder.
The spec gives bits only to the three one-wire function codes (R77): 0xCC, 0x44, 0xBE. The kind bytes of the other operations, and the
layout of their operands, are the model's binary form of the script of R80 (DESIGN CHOICE, log 1). Multi-byte fields stand most
significant byte first, a boolean or a bit is the byte 0x00 or 0x01, a byte sequence is preceded by its length. No kind byte is below 0x10, so the zeros after a table word are no operation. -/

namespace Sys2Proof

/-- Why the stream's bytes are no operation. -/
inductive DecodeError where
  /-- The kind byte names no operation. -/
  | unknownKind (kind : Byte)
  /-- The stream ends inside an operation. -/
  | truncated
  /-- An operand has a value its operation does not take. -/
  | badOperand (kind : Byte)
  deriving DecidableEq, Repr

/-- What a decoder answers: an operation and the bytes after it. -/
abbrev Decoded := Except DecodeError (Instr × List Byte)

/-- The kind byte of each operation. -/
def kindByte : Instr → Byte
  | .wr => 0x60
  | .rx _ => 0x61
  | .wc => 0x62
  | .rd => 0x63
  | .sp => 0x64
  | .accept _ => 0x65
  | .setChannels _ => 0x10
  | .getTemp => 0x11
  | .getAirTempHumidity => 0x12
  | .getDepth => 0x13
  | .unrecognized => 0x14
  | .accumulatePec _ _ => 0x20
  | .crcPec _ => 0x21
  | .appendPec _ _ => 0x22
  | .verifyPec _ _ => 0x23
  | .accumulateOw _ _ => 0x28
  | .crcOw _ => 0x29
  | .appendOw _ _ => 0x2A
  | .verifyOw _ _ => 0x2B
  | .owReset => 0x30
  | .owWriteBit _ => 0x31
  | .owReadBit => 0x32
  | .owWriteByte _ => 0x33
  | .owReadByte => 0x34
  | .acquireTemperature => 0x35
  | .skipRom => 0xCC
  | .convertT => 0x44
  | .readScratchpad => 0xBE
  | .qerr => 0x50
  | .clr => 0x51
  | .en _ => 0x52
  | .pub _ => 0x53
  | .chan => 0x54
  | .rst => 0x55

/-- One operand byte. -/
def takeByte (bs : List Byte) (k : Byte → List Byte → Decoded) : Decoded :=
  match bs with
  | [] => .error .truncated
  | b :: rest => k b rest

/-- A boolean operand: 0x00 or 0x01. -/
def takeFlag (kind : Byte) (bs : List Byte) (k : Bool → List Byte → Decoded) : Decoded :=
  takeByte bs fun b rest =>
    if b = 0x00 then k false rest else if b = 0x01 then k true rest else .error (.badOperand kind)

/-- A 16-bit operand, most significant byte first. -/
def takeHalf (bs : List Byte) (k : Half → List Byte → Decoded) : Decoded :=
  takeByte bs fun hi rest => takeByte rest fun lo rest => k (hi ++ lo) rest

/-- A byte sequence preceded by its length. -/
def takeBytes (bs : List Byte) (k : List Byte → List Byte → Decoded) : Decoded :=
  takeByte bs fun n rest =>
    if rest.length < n.toNat then .error .truncated else k (rest.take n.toNat) (rest.drop n.toNat)

/-- A length, then a buffer that must hold at least len + 1 bytes (R105, R106). -/
def takeBuffer (kind : Byte) (bs : List Byte) (mk : List Byte → Nat → Instr) : Decoded :=
  takeByte bs fun len rest => takeBytes rest fun buf rest =>
    if bufferFits buf len.toNat then .ok (mk buf len.toNat, rest) else .error (.badOperand kind)

/-- A telemetry record, its fields in the order of R34. -/
def takeSnapshot (bs : List Byte) (k : Snapshot → List Byte → Decoded) : Decoded :=
  takeByte bs fun int rest => takeHalf rest fun frac rest => takeHalf rest fun raw rest =>
    takeHalf rest fun ht rest => takeHalf rest fun hh rest => takeHalf rest fun d rest =>
      k { temperature := { integerPart := int, fractionalPart := frac, rawRegister := raw },
          humidity := { temperature := ht, humidity := hh }, depth := d } rest

/-- The operands of the operation whose kind byte is `kind`. -/
def decodeOperands (kind : Byte) (bs : List Byte) : Decoded :=
  match kind.toNat with
  | 0x60 => .ok (.wr, bs)
  | 0x61 => takeByte bs fun b rest => .ok (.rx b, rest)
  | 0x62 => .ok (.wc, bs)
  | 0x63 => .ok (.rd, bs)
  | 0x64 => .ok (.sp, bs)
  | 0x65 => takeByte bs fun l rest => .ok (.accept l.toNat, rest)
  | 0x10 => takeFlag kind bs fun long rest => .ok (.setChannels (if long then .long else .short), rest)
  | 0x11 => .ok (.getTemp, bs)
  | 0x12 => .ok (.getAirTempHumidity, bs)
  | 0x13 => .ok (.getDepth, bs)
  | 0x14 => .ok (.unrecognized, bs)
  | 0x20 => takeByte bs fun s rest => takeByte rest fun b rest => .ok (.accumulatePec s b, rest)
  | 0x21 => takeBytes bs fun bytes rest => .ok (.crcPec bytes, rest)
  | 0x22 => takeBuffer kind bs .appendPec
  | 0x23 => takeBuffer kind bs .verifyPec
  | 0x28 => takeByte bs fun s rest => takeByte rest fun b rest => .ok (.accumulateOw s b, rest)
  | 0x29 => takeBytes bs fun bytes rest => .ok (.crcOw bytes, rest)
  | 0x2A => takeBuffer kind bs .appendOw
  | 0x2B => takeBuffer kind bs .verifyOw
  | 0x30 => .ok (.owReset, bs)
  | 0x31 => takeFlag kind bs fun b rest => .ok (.owWriteBit b, rest)
  | 0x32 => .ok (.owReadBit, bs)
  | 0x33 => takeByte bs fun v rest => .ok (.owWriteByte v, rest)
  | 0x34 => .ok (.owReadByte, bs)
  | 0x35 => .ok (.acquireTemperature, bs)
  | 0xCC => .ok (.skipRom, bs)
  | 0x44 => .ok (.convertT, bs)
  | 0xBE => .ok (.readScratchpad, bs)
  | 0x50 => .ok (.qerr, bs)
  | 0x51 => .ok (.clr, bs)
  | 0x52 => takeFlag kind bs fun v rest => .ok (.en v, rest)
  | 0x53 => takeSnapshot bs fun snap rest => .ok (.pub snap, rest)
  | 0x54 => .ok (.chan, bs)
  | 0x55 => .ok (.rst, bs)
  | _ => .error (.unknownKind kind)

/-- The decoder: the first operation of the stream and the bytes after it, or a rejection by name. -/
def decode (bs : List Byte) : Decoded := takeByte bs decodeOperands

/-- The byte of a boolean operand. -/
def flagByte (v : Bool) : Byte := if v then 0x01 else 0x00

/-- The byte of a length. -/
def lengthByte (n : Nat) : Byte := BitVec.ofNat 8 n

/-- The two bytes of a 16-bit operand, most significant first. -/
def halfBytes (v : Half) : List Byte := [v.extractLsb' 8 8, v.extractLsb' 0 8]

/-- The bytes of a telemetry record. -/
def snapshotBytes (s : Snapshot) : List Byte :=
  s.temperature.integerPart :: (halfBytes s.temperature.fractionalPart ++ halfBytes s.temperature.rawRegister
    ++ halfBytes s.humidity.temperature ++ halfBytes s.humidity.humidity ++ halfBytes s.depth)

/-- The bytes of a buffer operand: its length parameter, its size, its bytes. -/
def bufferBytes (buf : List Byte) (len : Nat) : List Byte := lengthByte len :: lengthByte buf.length :: buf

/-- The operand bytes of an operation. -/
def operandBytes : Instr → List Byte
  | .rx b => [b]
  | .accept l => [lengthByte l]
  | .setChannels .short => [0x00]
  | .setChannels .long => [0x01]
  | .accumulatePec s b => [s, b]
  | .crcPec bytes => lengthByte bytes.length :: bytes
  | .appendPec buf len => bufferBytes buf len
  | .verifyPec buf len => bufferBytes buf len
  | .accumulateOw s b => [s, b]
  | .crcOw bytes => lengthByte bytes.length :: bytes
  | .appendOw buf len => bufferBytes buf len
  | .verifyOw buf len => bufferBytes buf len
  | .owWriteBit b => [flagByte b]
  | .owWriteByte v => [v]
  | .en v => [flagByte v]
  | .pub snap => snapshotBytes snap
  | .wr | .wc | .rd | .sp | .getTemp | .getAirTempHumidity | .getDepth | .unrecognized => []
  | .owReset | .owReadBit | .owReadByte | .acquireTemperature | .skipRom | .convertT | .readScratchpad => []
  | .qerr | .clr | .chan | .rst => []

/-- The encoder: the stream form of an operation. -/
def encode (i : Instr) : List Byte := kindByte i :: operandBytes i

/-- The longest stream form: a kind byte, two length bytes and 255 bytes of buffer. -/
def longestEncoding : Nat := 258

/-- The bytes of a table word, its least significant byte first, then zeros up to the longest stream form. -/
def tableWordBytes (nbits w : Nat) : List Byte :=
  (List.range ((nbits + 7) / 8)).map (fun k => BitVec.ofNat 8 (w / 256 ^ k))
    ++ List.replicate (longestEncoding - (nbits + 7) / 8) 0

/-- What the decoder reads from a word of the opcode table. -/
def decodeTableWord (nbits w : Nat) : Option Instr :=
  match decode (tableWordBytes nbits w) with
  | .ok (i, _) => some i
  | .error _ => none

end Sys2Proof
end

