-- ==== Sys2Proof/Config.lean ====
section
/-! DEFINITION. What a build of the block fixes (R6, R8) and the free values the spec leaves open (R10, R125, R171). -/

namespace Sys2Proof

/-- NUM_CHANNELS, "one of {6, 8}" (R6). -/
inductive NumChannels where
  | six
  | eight
  deriving DecidableEq, Repr

/-- The INTEGRITY_MODE values a model admits (R6, R107). -/
inductive IntegrityMode where
  | table
  | direct
  deriving DecidableEq, Repr

/-- The integrity strategies the source names, the refused one among them (R6, R8). -/
inductive IntegrityChoice where
  | disabled
  | table
  | direct
  deriving DecidableEq, Repr

/-- The one-wire slot timings in microseconds (R171). -/
structure Timing where
  tRstl : Nat
  tPds : Nat
  tRstSlot : Nat
  tW1l : Nat
  tSlot : Nat
  tRl : Nat
  tRs : Nat
  tRrem : Nat
  deriving DecidableEq, Repr

/-- The build-time parameters of R6. One NUM_CHANNELS serves both uses (R8). `pollLimit = none` is "unbounded", this hardware;
a number is the variant of R188. -/
structure Params where
  numChannels : NumChannels
  maxPayload : Nat
  opSetChannels : Byte
  opGetTemp : Byte
  opGetAirTempHumidity : Byte
  opGetDepth : Byte
  slaveAddr : BitVec 7
  integrityMode : IntegrityMode
  timing : Timing
  pollLimit : Option Nat
  samplePeriod : Nat
  deriving DecidableEq, Repr

/-- A build configuration as it is asked for, before R8 admits or refuses it: the integrity strategy may be `disabled`, and the
channel count of the length check may differ from the one applied to the bank. -/
structure BuildConfig where
  integrity : IntegrityChoice
  lengthChannels : NumChannels
  bankChannels : NumChannels
  params : Params
  deriving DecidableEq, Repr

/-- Why a configuration is refused (R6, R8). -/
inductive ConfigRefusal where
  /-- INTEGRITY_MODE = disabled. -/
  | integrityDisabled
  /-- Two of the four OP_* values are equal. -/
  | equalOpcodes
  /-- The channel count of the length check differs from the bank's. -/
  | splitChannelCount
  /-- MAX_PAYLOAD outside its range (R6, R7). -/
  | payloadOutOfRange
  /-- POLL_LIMIT = 0: the variant takes a natural number of at least 1 (R188). -/
  | pollLimitZero
  deriving DecidableEq, Repr

/-- FREE VALUE: `draw8()` of R10 and R125, and the unspecified bytes after Reset (R260). Nothing in Lean can evaluate it, so a claim
holds for every value (log 6, log 7). -/
opaque Config.freeByte : Nat → Byte

/-- FREE VALUE: the answer of a line sample the environment's list does not give (R171, log 8). -/
opaque Config.freeSample : Nat → Bool

end Sys2Proof
end

