-- ==== Sys2Proof/Machine/Configure.lean ====
section
/-! DEFINITION. The capacities, constants and admitted configurations of R6 to R8, R77 and R171. -/

namespace Sys2Proof

/-- The number NUM_CHANNELS stands for (R6). -/
def NumChannels.count : NumChannels → Nat
  | .six => 6
  | .eight => 8

/-- RX_CAP = MAX_PAYLOAD + 3 (R7). -/
def Params.rxCap (p : Params) : Nat := p.maxPayload + 3

/-- TX_CAP = MAX_PAYLOAD + 1 (R7). -/
def Params.txCap (p : Params) : Nat := p.maxPayload + 1

/-- The number of channels of the bank and of a SETCHANNELS message (R6, R8). -/
def Params.channels (p : Params) : Nat := p.numChannels.count

/-- The scratchpad has 9 bytes (R31). -/
def scratchCap : Nat := 9

/-- SKIP_ROM (R77). -/
def skipRomCode : Byte := 0xCC

/-- CONVERT_T (R77). -/
def convertTCode : Byte := 0x44

/-- READ_SCRATCHPAD (R77). -/
def readScratchpadCode : Byte := 0xBE

/-- The nominal slot timings (R171). -/
def Timing.nominal : Timing :=
  { tRstl := 480, tPds := 60, tRstSlot := 960, tW1l := 5, tSlot := 60, tRl := 1, tRs := 14, tRrem := 45 }

/-- `max(4, NUM_CHANNELS - 1) <= MAX_PAYLOAD <= 32` (R6): the largest frames fit (R7). -/
def Params.payloadInRange (p : Params) : Bool :=
  decide (max 4 (p.channels - 1) ≤ p.maxPayload) && decide (p.maxPayload ≤ 32)

/-- The four OP_* values are pairwise distinct (R6, R8). -/
def Params.opcodesDistinct (p : Params) : Bool :=
  decide (p.opSetChannels ≠ p.opGetTemp) && decide (p.opSetChannels ≠ p.opGetAirTempHumidity)
    && decide (p.opSetChannels ≠ p.opGetDepth) && decide (p.opGetTemp ≠ p.opGetAirTempHumidity)
    && decide (p.opGetTemp ≠ p.opGetDepth) && decide (p.opGetAirTempHumidity ≠ p.opGetDepth)

/-- POLL_LIMIT is unbounded or at least 1 (R188). -/
def Params.pollLimitValid (p : Params) : Bool := decide (p.pollLimit ≠ some 0)

/-- The configurations a model gives a meaning to (R6 to R8). -/
def Params.admitted (p : Params) : Bool := p.payloadInRange && p.opcodesDistinct && p.pollLimitValid

/-- POLL_LIMIT = unbounded is this hardware (R6, R179); a number is the variant of R188. -/
def Params.isThisHardware (p : Params) : Bool := p.admitted && decide (p.pollLimit = none)

/-- The mode an integrity strategy stands for; `disabled` has none (R8). -/
def IntegrityChoice.mode : IntegrityChoice → Option IntegrityMode
  | .disabled => none
  | .table => some .table
  | .direct => some .direct

/-- R8: the model admits a build configuration, or refuses it by name. -/
def BuildConfig.accepted (c : BuildConfig) : Except ConfigRefusal Params :=
  match c.integrity.mode with
  | none => .error .integrityDisabled
  | some mode =>
    if c.lengthChannels ≠ c.bankChannels then .error .splitChannelCount
    else
      let p := { c.params with integrityMode := mode, numChannels := c.bankChannels }
      if !p.opcodesDistinct then .error .equalOpcodes
      else if !p.payloadInRange then .error .payloadOutOfRange
      else if !p.pollLimitValid then .error .pollLimitZero
      else .ok p

/-- The test configuration of 95_test_vectors.md L0: "test-only values" (log 4). SLAVE_ADDR and SAMPLE_PERIOD, which no rule of the core
reads, are 0. -/
def Params.tc : Params :=
  { numChannels := .eight, maxPayload := 32, opSetChannels := 0xA0, opGetTemp := 0xA1, opGetAirTempHumidity := 0xA2, opGetDepth := 0xA3,
    slaveAddr := 0, integrityMode := .table, timing := .nominal, pollLimit := none, samplePeriod := 0 }

end Sys2Proof
end

