-- ==== Sys2Proof/Machine/State.lean ====
section
/-! DEFINITION. The architectural state (10_state.md R20 to R37), the model's own fields beside it, and the reset state (R260). -/

namespace Sys2Proof.Machine

/-- The bus engine's state (R22). -/
inductive BusState where
  | idle
  | writeRequested
  | readRequested
  /-- Listed by the source, entered by no rule (R128). -/
  | writeReadRequested
  deriving DecidableEq, Repr

/-- The bus error kinds 1 to 6 of R232. Kind 7, SensorReadError, is a value of `OwResult` (R233). -/
inductive ErrorKind where
  | protocolLength
  | integrity
  | unknownCommand
  | bufferOverflow
  | readState
  | overRead
  deriving DecidableEq, Repr

/-- What Accept(L) answers (R124). -/
inductive Verdict where
  | acceptedShort
  | acceptedLong
  | rejected (kind : ErrorKind)
  deriving DecidableEq, Repr

/-- The sequencer position of the one-wire driver (R31). -/
inductive OwSeq where
  | idle
  | reset1
  | skip1
  | convert
  | poll
  | reset2
  | skip2
  | readCmd
  | readSp
  | reset3
  | done
  deriving DecidableEq, Repr

/-- The result of an acquisition (R31). -/
inductive OwResult where
  | none
  | ok (t : Temperature)
  | sensorReadError
  deriving DecidableEq, Repr

/-- The driver's output on the one-wire line (R33). -/
inductive Drive where
  | low
  | released
  deriving DecidableEq, Repr

/-- A one-wire slot: reset, write a bit, or read a bit (R170). -/
inductive Slot where
  | reset
  | write (b : Bool)
  | read
  deriving DecidableEq, Repr

/-- A byte operation of the driver: writeByte(v) or readByte() (R175, R176). -/
inductive ByteCall where
  | write (v : Byte)
  | read
  deriving DecidableEq, Repr

/-- The four index spaces of R50. -/
inductive Space where
  | rx
  | tx
  | bank
  | scratch
  deriving DecidableEq, Repr

/-- The bytes of the index spaces: rxBuffer, txBuffer, ChannelBank and scratch (R23, R25, R31, R32, R50). -/
structure Memory where
  rx : List Byte
  tx : List Byte
  bank : List Byte
  scratch : List Byte
  deriving DecidableEq, Repr

/-- The answer an operation gives to whoever posted it (R79). Model's own (log 9). -/
inductive Answer where
  | none
  /-- A byte: emitted by RD (R125), or computed by the codec. -/
  | byte (b : Byte)
  /-- A boolean: QERR (R211), verify (R106), the presence a reset slot found (R172). -/
  | flag (v : Bool)
  /-- The bit a read slot gave (R174). -/
  | bit (b : Bool)
  /-- Bytes: CHAN (R215), append (R105). -/
  | bytes (bs : List Byte)
  /-- Accept's verdict (R124). -/
  | verdict (v : Verdict)
  deriving DecidableEq, Repr

/-- Whose turn the next step is: the next posted operation (BusEngine or host), or the MainLoop's next one-wire slot (R5, R237).
Model's own (log 2). -/
inductive Turn where
  | posted
  | slot
  deriving DecidableEq, Repr

/-- The machine's state: the elements of R37, the parameters of R6, and the model's own fields. -/
structure State where
  /-- The build-time parameters (R6); no operation changes them (R260). -/
  params : Params
  /-- The spec's `state` (R22). -/
  busState : BusState
  /-- The four index spaces (R50). -/
  mem : Memory
  /-- R24. -/
  rxCount : Nat
  /-- R26. -/
  txLength : Nat
  /-- R27. -/
  txCount : Nat
  /-- R28. -/
  enable : Bool
  /-- R29. -/
  error : Bool
  /-- R34. -/
  snapshot : Snapshot
  /-- R31. -/
  owSeq : OwSeq
  /-- R31: 0..7. -/
  bitIndex : Fin 8
  /-- R31: 0..8. -/
  byteIndex : Fin 9
  /-- R31. -/
  pollCount : Nat
  /-- R31. -/
  owResult : OwResult
  /-- R33. -/
  owDrive : Drive
  /-- Model's own: the local `v` of readByte, R176 (log 10). -/
  owByte : Byte
  /-- Model's own: the local `ok` of the acquisition, R177 (log 10). -/
  owOk : Bool
  /-- Model's own: a byte operation called outside an acquisition and not finished (log 10). -/
  owCall : Option ByteCall
  /-- Model's own: the last operation's answer (log 9). -/
  result : Answer
  /-- Model's own: the stream of operations posted and not yet taken (log 1). -/
  inbox : List Byte
  /-- Model's own: the schedule (log 2). -/
  turns : List Turn
  /-- Model's own: the sensor's answers to the coming samples, `true` for a high line (log 8). -/
  line : List Bool
  /-- Model's own: how many free values have been drawn (log 7). -/
  draws : Nat
  deriving DecidableEq, Repr

/-- The faults of a step. The block itself has none (R230). -/
inductive Fault where
  /-- Raised by an access outside an index space. R51: "No rule can form an out-of-range index"; only a state whose lists do not have their
  capacities, or whose counters are out of range, reaches it. SAFE: it stops, and no run from reset meets it (log 16). -/
  | indexOutOfRange
  deriving DecidableEq, Repr

/-- The refusals of a step. -/
inductive Refusal where
  /-- Raised by exec for an instruction without a meaning. SAFE. -/
  | notModelled (mnemonic : String)
  /-- Raised by step where the posted bytes are no operation of R79 (log 1). SAFE. -/
  | undecodable (e : DecodeError)
  /-- Raised by step: "A refused configuration has no meaning in the model" (R8, log 15). SAFE. -/
  | configuration
  /-- Raised by ACQUIRE_TEMPERATURE while an acquisition runs: "a second start mid-run has no meaning and is refused" (R217). SAFE. -/
  | acquisitionRunning
  /-- Raised by a byte call (R175, R176, R77) while the one driver is inside an acquisition or another byte call (log 13). SAFE. -/
  | driverBusy
  /-- Raised by append and verify on a buffer with fewer than len + 1 bytes, which their operand rules exclude (R105, R106) and the decoder
  never yields (log 14). SAFE. -/
  | shortBuffer
  deriving DecidableEq, Repr

/-- What every meaning answers. -/
abbrev Result := Host.Outcome State Fault Refusal

/-- The zero snapshot: "Created once at startup with zero values" (R37). -/
def Snapshot.zero : Snapshot :=
  { temperature := { integerPart := 0, fractionalPart := 0, rawRegister := 0 }, humidity := { temperature := 0, humidity := 0 }, depth := 0 }

/-- Right after reset, for any parameters (R37, R260). The bytes of rxBuffer, txBuffer and scratch, which the spec leaves unspecified, are
0x00 (DESIGN CHOICE, log 5). -/
def State.resetWith (p : Params) : State :=
  { params := p
    busState := .idle
    mem := { rx := List.replicate p.rxCap 0, tx := List.replicate p.txCap 0, bank := List.replicate p.channels 0, scratch := List.replicate scratchCap 0 }
    rxCount := 0
    txLength := 0
    txCount := 0
    enable := true
    error := false
    snapshot := Snapshot.zero
    owSeq := .idle
    bitIndex := 0
    byteIndex := 0
    pollCount := 0
    owResult := .none
    owDrive := .released
    owByte := 0
    owOk := false
    owCall := none
    result := .none
    inbox := []
    turns := []
    line := []
    draws := 0 }

/-- The machine right after reset, at the test configuration's parameters (log 4). -/
def State.reset : State := State.resetWith Params.tc

end Sys2Proof.Machine
end

