-- ==== Sys2Proof/Machine/Flags.lean ====
section
/-! DEFINITION. The two flags, `error` and `enable` (R28, R29). "The block has no condition codes, no arithmetic flags" (R30): these are
every flag the block computes. -/

namespace Sys2Proof.Machine

/-- `error <- true` (R231). The flag is sticky: only `clearError` and Reset undo it (R29). -/
def State.setError (s : State) : State := { s with error := true }

/-- `error <- false` (R212). -/
def State.clearError (s : State) : State := { s with error := false }

/-- `enable <- v` (R213). -/
def State.setEnable (s : State) (v : Bool) : State := { s with enable := v }

/-- Whether WriteRequested starts a message: the block accepts transactions, and the state is Idle or WriteReadRequested (R121). -/
def State.startsMessage (s : State) : Bool :=
  s.enable && match s.busState with
    | .idle => true
    | .writeReadRequested => true
    | .writeRequested => false
    | .readRequested => false

end Sys2Proof.Machine
end

