-- ==== Sys2Proof/Machine/Integrity.lean ====
section
/-! DEFINITION. The CRC-8 generator in both variants (40_integrity_codec.md): pure functions, no state between calls.
Bit orders, the Dallas polynomial and the absence of a final XOR are the spec's general knowledge (R100, log 23). -/

namespace Sys2Proof.Machine

/-- `T_PEC` as R101 prints it, a row of sixteen a line. -/
def tablePec : List Byte :=
  [0x00, 0x07, 0x0E, 0x09, 0x1C, 0x1B, 0x12, 0x15, 0x38, 0x3F, 0x36, 0x31, 0x24, 0x23, 0x2A, 0x2D] ++
  [0x70, 0x77, 0x7E, 0x79, 0x6C, 0x6B, 0x62, 0x65, 0x48, 0x4F, 0x46, 0x41, 0x54, 0x53, 0x5A, 0x5D] ++
  [0xE0, 0xE7, 0xEE, 0xE9, 0xFC, 0xFB, 0xF2, 0xF5, 0xD8, 0xDF, 0xD6, 0xD1, 0xC4, 0xC3, 0xCA, 0xCD] ++
  [0x90, 0x97, 0x9E, 0x99, 0x8C, 0x8B, 0x82, 0x85, 0xA8, 0xAF, 0xA6, 0xA1, 0xB4, 0xB3, 0xBA, 0xBD] ++
  [0xC7, 0xC0, 0xC9, 0xCE, 0xDB, 0xDC, 0xD5, 0xD2, 0xFF, 0xF8, 0xF1, 0xF6, 0xE3, 0xE4, 0xED, 0xEA] ++
  [0xB7, 0xB0, 0xB9, 0xBE, 0xAB, 0xAC, 0xA5, 0xA2, 0x8F, 0x88, 0x81, 0x86, 0x93, 0x94, 0x9D, 0x9A] ++
  [0x27, 0x20, 0x29, 0x2E, 0x3B, 0x3C, 0x35, 0x32, 0x1F, 0x18, 0x11, 0x16, 0x03, 0x04, 0x0D, 0x0A] ++
  [0x57, 0x50, 0x59, 0x5E, 0x4B, 0x4C, 0x45, 0x42, 0x6F, 0x68, 0x61, 0x66, 0x73, 0x74, 0x7D, 0x7A] ++
  [0x89, 0x8E, 0x87, 0x80, 0x95, 0x92, 0x9B, 0x9C, 0xB1, 0xB6, 0xBF, 0xB8, 0xAD, 0xAA, 0xA3, 0xA4] ++
  [0xF9, 0xFE, 0xF7, 0xF0, 0xE5, 0xE2, 0xEB, 0xEC, 0xC1, 0xC6, 0xCF, 0xC8, 0xDD, 0xDA, 0xD3, 0xD4] ++
  [0x69, 0x6E, 0x67, 0x60, 0x75, 0x72, 0x7B, 0x7C, 0x51, 0x56, 0x5F, 0x58, 0x4D, 0x4A, 0x43, 0x44] ++
  [0x19, 0x1E, 0x17, 0x10, 0x05, 0x02, 0x0B, 0x0C, 0x21, 0x26, 0x2F, 0x28, 0x3D, 0x3A, 0x33, 0x34] ++
  [0x4E, 0x49, 0x40, 0x47, 0x52, 0x55, 0x5C, 0x5B, 0x76, 0x71, 0x78, 0x7F, 0x6A, 0x6D, 0x64, 0x63] ++
  [0x3E, 0x39, 0x30, 0x37, 0x22, 0x25, 0x2C, 0x2B, 0x06, 0x01, 0x08, 0x0F, 0x1A, 0x1D, 0x14, 0x13] ++
  [0xAE, 0xA9, 0xA0, 0xA7, 0xB2, 0xB5, 0xBC, 0xBB, 0x96, 0x91, 0x98, 0x9F, 0x8A, 0x8D, 0x84, 0x83] ++
  [0xDE, 0xD9, 0xD0, 0xD7, 0xC2, 0xC5, 0xCC, 0xCB, 0xE6, 0xE1, 0xE8, 0xEF, 0xFA, 0xFD, 0xF4, 0xF3]

/-- `T_OW` as R102 prints it, a row of sixteen a line. -/
def tableOw : List Byte :=
  [0x00, 0x5E, 0xBC, 0xE2, 0x61, 0x3F, 0xDD, 0x83, 0xC2, 0x9C, 0x7E, 0x20, 0xA3, 0xFD, 0x1F, 0x41] ++
  [0x9D, 0xC3, 0x21, 0x7F, 0xFC, 0xA2, 0x40, 0x1E, 0x5F, 0x01, 0xE3, 0xBD, 0x3E, 0x60, 0x82, 0xDC] ++
  [0x23, 0x7D, 0x9F, 0xC1, 0x42, 0x1C, 0xFE, 0xA0, 0xE1, 0xBF, 0x5D, 0x03, 0x80, 0xDE, 0x3C, 0x62] ++
  [0xBE, 0xE0, 0x02, 0x5C, 0xDF, 0x81, 0x63, 0x3D, 0x7C, 0x22, 0xC0, 0x9E, 0x1D, 0x43, 0xA1, 0xFF] ++
  [0x46, 0x18, 0xFA, 0xA4, 0x27, 0x79, 0x9B, 0xC5, 0x84, 0xDA, 0x38, 0x66, 0xE5, 0xBB, 0x59, 0x07] ++
  [0xDB, 0x85, 0x67, 0x39, 0xBA, 0xE4, 0x06, 0x58, 0x19, 0x47, 0xA5, 0xFB, 0x78, 0x26, 0xC4, 0x9A] ++
  [0x65, 0x3B, 0xD9, 0x87, 0x04, 0x5A, 0xB8, 0xE6, 0xA7, 0xF9, 0x1B, 0x45, 0xC6, 0x98, 0x7A, 0x24] ++
  [0xF8, 0xA6, 0x44, 0x1A, 0x99, 0xC7, 0x25, 0x7B, 0x3A, 0x64, 0x86, 0xD8, 0x5B, 0x05, 0xE7, 0xB9] ++
  [0x8C, 0xD2, 0x30, 0x6E, 0xED, 0xB3, 0x51, 0x0F, 0x4E, 0x10, 0xF2, 0xAC, 0x2F, 0x71, 0x93, 0xCD] ++
  [0x11, 0x4F, 0xAD, 0xF3, 0x70, 0x2E, 0xCC, 0x92, 0xD3, 0x8D, 0x6F, 0x31, 0xB2, 0xEC, 0x0E, 0x50] ++
  [0xAF, 0xF1, 0x13, 0x4D, 0xCE, 0x90, 0x72, 0x2C, 0x6D, 0x33, 0xD1, 0x8F, 0x0C, 0x52, 0xB0, 0xEE] ++
  [0x32, 0x6C, 0x8E, 0xD0, 0x53, 0x0D, 0xEF, 0xB1, 0xF0, 0xAE, 0x4C, 0x12, 0x91, 0xCF, 0x2D, 0x73] ++
  [0xCA, 0x94, 0x76, 0x28, 0xAB, 0xF5, 0x17, 0x49, 0x08, 0x56, 0xB4, 0xEA, 0x69, 0x37, 0xD5, 0x8B] ++
  [0x57, 0x09, 0xEB, 0xB5, 0x36, 0x68, 0x8A, 0xD4, 0x95, 0xCB, 0x29, 0x77, 0xF4, 0xAA, 0x48, 0x16] ++
  [0xE9, 0xB7, 0x55, 0x0B, 0x88, 0xD6, 0x34, 0x6A, 0x2B, 0x75, 0x97, 0xC9, 0x4A, 0x14, 0xF6, 0xA8] ++
  [0x74, 0x2A, 0xC8, 0x96, 0x15, 0x4B, 0xA9, 0xF7, 0xB6, 0xE8, 0x0A, 0x54, 0xD7, 0x89, 0x6B, 0x35]

/-- `n` rounds of `f`. -/
def rounds (f : Byte → Byte) : Nat → Byte → Byte
  | 0, c => c
  | n + 1, c => rounds f n (f c)

/-- One round of the PEC loop (R101): shift left, and XOR 0x07 where bit 7 was set. -/
def pecRound (c : Byte) : Byte := if c.getLsbD 7 then (c <<< 1) ^^^ 0x07 else c <<< 1

/-- One round of the OW loop (R102): shift right, and XOR 0x8C where bit 0 was set. -/
def owRound (c : Byte) : Byte := if c.getLsbD 0 then (c >>> 1) ^^^ 0x8C else c >>> 1

/-- The table of a variant (R101, R102). -/
def crcTable : Variant → List Byte
  | .pec => tablePec
  | .ow => tableOw

/-- `T_V[i]`. -/
def crcEntry (v : Variant) (i : Byte) : Byte := (crcTable v).getD i.toNat 0

/-- The seed of a variant (R100): 0xFF for PEC, 0x00 for OW. -/
def crcSeed : Variant → Byte
  | .pec => 0xFF
  | .ow => 0x00

/-- One bit of the direct OW computation (R107): `mix <- (c XOR (b >> i))[0] ; c <- c >> 1 ; if mix == 1: c <- c XOR 0x8C`. -/
def owDirectBit (b : Byte) (c : Byte) (i : Nat) : Byte :=
  if (c ^^^ (b >>> i)).getLsbD 0 then (c >>> 1) ^^^ 0x8C else c >>> 1

/-- `accumulate_V` bit by bit, INTEGRITY_MODE = direct (R107). -/
def accumulateDirect : Variant → Byte → Byte → Byte
  | .pec, s, b => rounds pecRound 8 (s ^^^ b)
  | .ow, s, b => (List.range 8).foldl (owDirectBit b) s

/-- `accumulate_V(s, b) = T_V[s XOR b]` (R103), or its direct computation (R107). -/
def accumulate (mode : IntegrityMode) (v : Variant) (s b : Byte) : Byte :=
  match mode with
  | .table => crcEntry v (s ^^^ b)
  | .direct => accumulateDirect v s b

/-- `crc_V(bytes)`: the accumulator over the bytes, from the seed (R104). -/
def crc (mode : IntegrityMode) (v : Variant) (bytes : List Byte) : Byte :=
  bytes.foldl (accumulate mode v) (crcSeed v)

/-- `append_V(buf, len)`: `buf[len] <- crc_V(buf[0..len))` (R105); nothing where the buffer has no byte at `len`. -/
def append (mode : IntegrityMode) (v : Variant) (buf : List Byte) (len : Nat) : Option (List Byte) :=
  if len < buf.length then some (buf.set len (crc mode v (buf.take len))) else none

/-- `verify_V(buf, len)`: `crc_V(buf[0..len)) == buf[len]` (R106); nothing where the buffer has no byte at `len`. -/
def verify (mode : IntegrityMode) (v : Variant) (buf : List Byte) (len : Nat) : Option Bool :=
  buf[len]?.map fun c => decide (crc mode v (buf.take len) = c)

end Sys2Proof.Machine
end

