-- ==== Sys2Proof/Machine/Operands.lean ====
section
/-! DEFINITION. Operand forms: the command of a message and its length (R72, R73, R155), the byte order of responses (R52), the bit order
of the one-wire line (R78), and the temperature decode (R183 to R186). -/

namespace Sys2Proof.Machine

/-- The four commands (R73). -/
inductive Command where
  | setChannels
  | getTemp
  | getAirTempHumidity
  | getDepth
  deriving DecidableEq, Repr

/-- The command a first byte selects: equality with the four OP_* parameters (R72); nothing for an unrecognized byte (R75). -/
def commandOf (p : Params) (op : Byte) : Option Command :=
  if op = p.opSetChannels then some .setChannels
  else if op = p.opGetTemp then some .getTemp
  else if op = p.opGetAirTempHumidity then some .getAirTempHumidity
  else if op = p.opGetDepth then some .getDepth
  else none

/-- The expected length L of a command: its command byte and payload, without the integrity byte (R73, R155). -/
def expectedLength (p : Params) : Command → Nat
  | .setChannels => 1 + p.channels
  | .getTemp => 1
  | .getAirTempHumidity => 1
  | .getDepth => 1

/-- The command byte of a command: the inverse of `commandOf` (R72). -/
def opcodeOf (p : Params) : Command → Byte
  | .setChannels => p.opSetChannels
  | .getTemp => p.opGetTemp
  | .getAirTempHumidity => p.opGetAirTempHumidity
  | .getDepth => p.opGetDepth

/-- `v[15:8]` then `v[7:0]`: "always big-endian 16-bit fields" (R52). -/
def bigEndian (v : Half) : List Byte := [v.extractLsb' 8 8, v.extractLsb' 0 8]

/-- `v[i]`, the bit slot i carries: least significant bit first (R78). -/
def wireBit (v : Byte) (i : Fin 8) : Bool := v.getLsbD i.val

/-- One step of readByte's assembly, `v <- v OR (readBit() << bitIndex)`, with `v <- 0` before bit 0 (R176). -/
def assembleBit (v : Byte) (i : Fin 8) (r : Bool) : Byte :=
  (if i = 0 then 0 else v) ||| ((if r then 1#8 else 0#8) <<< i.val)

/-- The payload of a GET_* response, before its integrity byte (R74). -/
def tempPayload (snap : Snapshot) : List Byte := bigEndian snap.temperature.rawRegister

/-- R74, the GET_AIR_TEMP_HUMIDITY row. -/
def airPayload (snap : Snapshot) : List Byte := bigEndian snap.humidity.temperature ++ bigEndian snap.humidity.humidity

/-- R74, the GET_DEPTH row. -/
def depthPayload (snap : Snapshot) : List Byte := bigEndian snap.depth

/-- `raw = {scratch[1], scratch[0]}` (R183). -/
def rawOf (lo hi : Byte) : Half := hi ++ lo

/-- `integerPart = raw[11:4]`, unsigned (R184, R190). -/
def integerPartOf (raw : Half) : Byte := raw.extractLsb' 4 8

/-- `fractionalPart = raw[3:0] * 625`, held in 16 bits (R185). -/
def fractionalPartOf (raw : Half) : Half := (raw.extractLsb' 0 4).zeroExtend 16 * 625#16

/-- The decode of a raw register, with no sign handling (R186, R190). -/
def decodeRaw (raw : Half) : Temperature :=
  { integerPart := integerPartOf raw, fractionalPart := fractionalPartOf raw, rawRegister := raw }

/-- `decode(scratch)` (R186): bytes 2..7 are ignored. -/
def decodeScratch (scratch : List Byte) : Option Temperature :=
  match scratch with
  | lo :: hi :: _ => some (decodeRaw (rawOf lo hi))
  | _ => none

end Sys2Proof.Machine
end

