-- ==== Sys2Proof/Machine/Ops.lean ====
section
/-! DEFINITION. The shared operations: byte access to the index spaces, answers and free values, the failure procedure, the acceptance
check, the responses, and the one-wire driver's slots and sequencer. An operation that reaches an index space answers an `Option`: nothing
where the index lies outside the space (R51, log 16). -/

namespace Sys2Proof.Machine

/-- A meaning's outcome from a shared operation: nothing is an access outside an index space. -/
def finish : Option State → Result
  | some s => .next s
  | none => .fault .indexOutOfRange

/-! ### Index spaces (R50, R51) -/

/-- The bytes of an index space. -/
def Memory.space (m : Memory) : Space → List Byte
  | .rx => m.rx
  | .tx => m.tx
  | .bank => m.bank
  | .scratch => m.scratch

/-- Replaces the bytes of an index space. -/
def Memory.setSpace (m : Memory) (sp : Space) (bs : List Byte) : Memory :=
  match sp with
  | .rx => { m with rx := bs }
  | .tx => { m with tx := bs }
  | .bank => { m with bank := bs }
  | .scratch => { m with scratch := bs }

/-- Reading one byte of an index space. -/
def Memory.peek (m : Memory) (sp : Space) (k : Nat) : Option Byte := (m.space sp)[k]?

/-- Reading `len` bytes from index `start`. -/
def Memory.read (m : Memory) (sp : Space) (start len : Nat) : Option (List Byte) :=
  if start + len ≤ (m.space sp).length then some (((m.space sp).drop start).take len) else none

/-- Writing bytes from index `start`; every other byte stays. -/
def Memory.write (m : Memory) (sp : Space) (start : Nat) (bs : List Byte) : Option Memory :=
  if start + bs.length ≤ (m.space sp).length then
    some (m.setSpace sp ((m.space sp).take start ++ bs ++ (m.space sp).drop (start + bs.length)))
  else none

/-- The capacity of an index space (R7, R50). -/
def spaceCap (p : Params) : Space → Nat
  | .rx => p.rxCap
  | .tx => p.txCap
  | .bank => p.channels
  | .scratch => scratchCap

/-- The one canonical form: each index space lists exactly its capacity of bytes. -/
def Memory.wf (p : Params) (m : Memory) : Bool :=
  decide (m.rx.length = p.rxCap) && decide (m.tx.length = p.txCap) && decide (m.bank.length = p.channels)
    && decide (m.scratch.length = scratchCap)

/-! ### Answers and free values -/

/-- The answer an operation gives (log 9). -/
def State.answer (s : State) (a : Answer) : State := { s with result := a }

/-- `draw8()` (R10): the free byte of this draw. -/
def State.drawByte (s : State) : Byte := Config.freeByte s.draws

/-- One free value has been drawn. -/
def State.countDraw (s : State) : State := { s with draws := s.draws + 1 }

/-- `n` free bytes from draw `start` on. -/
def freeBytes (start n : Nat) : List Byte := (List.range n).map fun k => Config.freeByte (start + k)

/-! ### The failure procedure: this block's whole exception mechanism (R230, R231) -/

/-- `Fail(kind)`: `error <- true ; state <- Idle` (R231). "`kind` is not recorded anywhere", so it leaves no trace; nothing else
changes. There is no return from it beside the end of the handler's step (R239). -/
def State.fail (s : State) (_kind : ErrorKind) : State := { s.setError with busState := .idle }

/-! ### The acceptance check (R124) -/

/-- `Accept(L)` (R124). -/
def State.acceptance (s : State) (expected : Nat) : Option Verdict :=
  if s.rxCount = expected then some .acceptedShort
  else if s.rxCount = expected + 1 then
    (verify s.params.integrityMode .pec s.mem.rx expected).map fun ok =>
      if ok then .acceptedLong else .rejected .integrity
  else some (.rejected .protocolLength)

/-! ### The commands (R151 to R155) -/

/-- A GET_* handler: the payload and its PEC into txBuffer, `txLength`, `txCount <- 0`, `state <- ReadRequested` (R152 to R154). -/
def State.respond (s : State) (payload : List Byte) : Option State :=
  (s.mem.write .tx 0 payload).bind fun m =>
    (append s.params.integrityMode .pec m.tx payload.length).map fun tx =>
      { s with mem := m.setSpace .tx tx, txLength := payload.length + 1, txCount := 0, busState := .readRequested }

/-- SETCHANNELS (R151): the short form and a wrong integrity byte fail; otherwise the whole bank is written in this one step. The long
form is a message of L + 1 received bytes (R150), so every byte read lies below rxCount (R23, R51); posted alone on any other count it fails
as R124's length check does (log 21). -/
def State.applyChannels (s : State) (form : Form) : Option State :=
  match form with
  | .short => some (s.fail .integrity)
  | .long =>
    if s.rxCount = expectedLength s.params .setChannels + 1 then
      (verify s.params.integrityMode .pec s.mem.rx (1 + s.params.channels)).bind fun ok =>
        if ok then
          (s.mem.read .rx 1 s.params.channels).bind fun bytes =>
            (s.mem.write .bank 0 bytes).map fun m => { s with mem := m, busState := .idle }
        else some (s.fail .integrity)
    else some (s.fail .protocolLength)

/-- `Dispatch(op, form)` (R150). -/
def State.dispatch (s : State) (c : Command) (form : Form) : Option State :=
  match c with
  | .setChannels => s.applyChannels form
  | .getTemp => s.respond (tempPayload s.snapshot)
  | .getAirTempHumidity => s.respond (airPayload s.snapshot)
  | .getDepth => s.respond (depthPayload s.snapshot)

/-- What a verdict leads to for a recognized command (R123). -/
def State.conclude (s : State) (c : Command) : Verdict → Option State
  | .acceptedShort => s.dispatch c .short
  | .acceptedLong => s.dispatch c .long
  | .rejected kind => some (s.fail kind)

/-- The message in rxBuffer with its checks, in R236's order: empty, unrecognized, length, integrity, short SETCHANNELS (R123). -/
def State.completeMessage (s : State) : Option State :=
  if s.rxCount = 0 then some (s.fail .protocolLength)
  else (s.mem.peek .rx 0).bind fun op =>
    match commandOf s.params op with
    | none => some (s.fail .unknownCommand)
    | some c => (s.acceptance (expectedLength s.params c)).bind fun v => s.conclude c v

/-! ### The one-wire line (R33, R171 to R174) -/

/-- One action of a slot (R10, R171). -/
inductive LineAct where
  | drive (d : Drive)
  | wait (us : Nat)
  | sample
  deriving DecidableEq, Repr

/-- The actions of a slot, in order (R172 to R174). -/
def slotActs (t : Timing) : Slot → List LineAct
  | .reset => [.drive .low, .wait t.tRstl, .drive .released, .wait t.tPds, .sample, .wait (t.tRstSlot - t.tRstl - t.tPds)]
  | .write true => [.drive .low, .wait t.tW1l, .drive .released, .wait (t.tSlot - t.tW1l)]
  | .write false => [.drive .low, .wait t.tW1l, .wait (t.tSlot - t.tW1l), .drive .released]
  | .read => [.drive .low, .wait t.tRl, .drive .released, .wait t.tRs, .sample, .wait t.tRrem]

/-- How long a list of actions takes, in microseconds; no rule of the machine reads it (R271). -/
def actsDuration (acts : List LineAct) : Nat :=
  (acts.map fun a => match a with
    | .wait us => us
    | _ => 0).sum

/-- What a test bench sees of a slot on the driver's side (R171): the line driven, and the line sampled, with the time since the slot
began. -/
inductive LineEvent where
  | drives (time : Nat) (d : Drive)
  | samples (time : Nat)
  deriving DecidableEq, Repr

/-- The events of a list of actions that begins at a time, in order; no rule of the machine reads them (R271). -/
def lineEvents (now : Nat) : List LineAct → List LineEvent
  | [] => []
  | .drive d :: acts => .drives now d :: lineEvents now acts
  | .wait us :: acts => lineEvents (now + us) acts
  | .sample :: acts => .samples now :: lineEvents now acts

/-- `owLine` (R33): low where the driver drives it low or the sensor pulls it low (`sensor = false`), high otherwise. -/
def lineLevel (d : Drive) (sensor : Bool) : Bool :=
  match d with
  | .low => false
  | .released => sensor

/-- The sensor's answer to the coming sample: the environment's, or a free value where its list is empty (R171, log 8). -/
def State.sensorAnswer (s : State) : Bool :=
  match s.line with
  | b :: _ => b
  | [] => Config.freeSample s.draws

/-- The sensor has answered one sample. -/
def State.countSample (s : State) : State :=
  match s.line with
  | _ :: rest => { s with line := rest }
  | [] => s.countDraw

/-- One action: driving the line, waiting ("changes no state"), sampling. The Boolean is the last sample. -/
def lineStep (sb : State × Bool) : LineAct → State × Bool
  | .drive d => ({ sb.1 with owDrive := d }, sb.2)
  | .wait _ => sb
  | .sample => (sb.1.countSample, lineLevel sb.1.owDrive sb.1.sensorAnswer)

/-- A whole slot on the line: the state after it, and the level it sampled (a write slot samples nothing). -/
def State.runSlot (s : State) (slot : Slot) : State × Bool :=
  (slotActs s.params.timing slot).foldl lineStep (s, true)

/-! ### The one-wire sequencer (R170, R177 to R182) -/

/-- The byte operation a position of the sequence is inside of; outside an acquisition, the byte call in progress (R177). -/
def State.byteCall (s : State) : Option ByteCall :=
  match s.owSeq with
  | .skip1 => some (.write skipRomCode)
  | .convert => some (.write convertTCode)
  | .skip2 => some (.write skipRomCode)
  | .readCmd => some (.write readScratchpadCode)
  | .readSp => some .read
  | .idle => s.owCall
  | .done => s.owCall
  | .reset1 | .poll | .reset2 | .reset3 => none

/-- The slot of a byte operation at the current bit (R175, R176). -/
def State.byteSlot (s : State) : Option Slot :=
  s.byteCall.map fun c => match c with
    | .write v => .write (wireBit v s.bitIndex)
    | .read => .read

/-- The slot the MainLoop runs next; nothing where the driver is at rest (R170, R177). -/
def State.nextSlot (s : State) : Option Slot :=
  match s.owSeq with
  | .reset1 => some .reset
  | .reset2 => some .reset
  | .reset3 => some .reset
  | .poll => some .read
  | .idle | .skip1 | .convert | .skip2 | .readCmd | .readSp | .done => s.byteSlot

/-- Whether an acquisition is under way: `owSeq` is neither OW_IDLE nor OW_DONE (R177, R217). -/
def State.acquiring (s : State) : Bool :=
  match s.owSeq with
  | .idle => false
  | .done => false
  | .reset1 | .skip1 | .convert | .poll | .reset2 | .skip2 | .readCmd | .readSp | .reset3 => true

/-- Whether the driver is inside an acquisition or a byte call. -/
def State.driverBusy (s : State) : Bool := s.acquiring || s.owCall.isSome

/-- Entering a position of the sequence. -/
def State.enter (s : State) (q : OwSeq) : State := { s with owSeq := q }

/-- Starting AcquireTemperature: `owResult <- None`, at RESET1 (R177, log 11). A byte call left unfinished is dropped (log 13). -/
def State.startAcquisition (s : State) : State := { s with owResult := .none, owSeq := .reset1, owCall := none }

/-- Starting a byte operation outside an acquisition, at bit 0 (R175, R176, log 11). -/
def State.startByteCall (s : State) (c : ByteCall) : State := { s with owCall := some c, bitIndex := 0 }

/-- After a reset slot (R177, R178, R182): no presence at RESET1 ends the acquisition; RESET2 and RESET3 ignore it; RESET3 sets the
result. -/
def State.afterReset (s : State) (present : Bool) : Option State :=
  match s.owSeq with
  | .reset1 =>
    if present then some { s with owSeq := .skip1, bitIndex := 0 }
    else some { s with owResult := .sensorReadError, owSeq := .done }
  | .reset2 => some { s with owSeq := .skip2, bitIndex := 0 }
  | .reset3 =>
    if s.owOk then (decodeScratch s.mem.scratch).map fun t => { s with owResult := .ok t, owSeq := .done }
    else some { s with owResult := .sensorReadError, owSeq := .done }
  | .idle | .skip1 | .convert | .poll | .skip2 | .readCmd | .readSp | .done => some s

/-- After a poll slot (R179): 1 leaves the loop; 0 counts and stays, but for the POLL_LIMIT variant, which goes to RESET3 with a failed
check (R188, log 18). -/
def State.afterPoll (s : State) (r : Bool) : State :=
  if r then s.enter .reset2
  else
    let s1 := { s with pollCount := s.pollCount + 1 }
    match s.params.pollLimit with
    | none => s1
    | some k => if k ≤ s.pollCount + 1 then { s1 with owSeq := .reset3, owOk := false } else s1

/-- The last read slot of a scratchpad byte (R180, R181): `scratch[byteIndex] <- v`, and after the ninth `ok <- verify_OW(scratch, 8)`. -/
def State.storeScratch (s : State) : Option State :=
  (s.mem.write .scratch s.byteIndex.val [s.owByte]).bind fun m =>
    if s.byteIndex.val = 8 then
      (verify s.params.integrityMode .ow m.scratch 8).map fun ok =>
        { s with mem := m, byteIndex := 0, owOk := ok, owSeq := .reset3 }
    else some { s with mem := m, byteIndex := s.byteIndex + 1 }

/-- After the eighth slot of a byte operation (R177): the next position. -/
def State.afterByte (s : State) : Option State :=
  match s.owSeq with
  | .skip1 => some (s.enter .convert)
  | .convert => some { s with owSeq := .poll, pollCount := 0 }
  | .skip2 => some (s.enter .readCmd)
  | .readCmd => some { s with owSeq := .readSp, byteIndex := 0 }
  | .readSp => s.storeScratch
  | .idle => some { s with owCall := none }
  | .done => some { s with owCall := none }
  | .reset1 | .poll | .reset2 | .reset3 => some s

/-- After one slot of a byte operation (R175, R176): the next bit, or the end of the byte. -/
def State.afterBit (s : State) : Option State :=
  if s.bitIndex = 7 then { s with bitIndex := 0 }.afterByte else some { s with bitIndex := s.bitIndex + 1 }

/-- After a read slot: the poll, or a bit of a byte (R176, R179). -/
def State.afterRead (s : State) (r : Bool) : Option State :=
  if s.owSeq = .poll then some (s.afterPoll r)
  else { s with owByte := assembleBit s.owByte s.bitIndex r }.afterBit

/-- The sequencer's move after a slot (R170). -/
def State.advance (s : State) (slot : Slot) (level : Bool) : Option State :=
  match slot with
  | .reset => s.afterReset (!level)
  | .write _ => s.afterBit
  | .read => s.afterRead level

/-- What a slot answers: presence (R172), nothing (R173), the bit (R174). -/
def slotAnswer (slot : Slot) (level : Bool) : Answer :=
  match slot with
  | .reset => .flag (!level)
  | .write _ => .none
  | .read => .bit level

/-- One slot: its waveform and sample, its answer, and, where it is the slot the sequence calls for, the sequencer's move (R170); a
slot the sequence does not call for moves nothing (log 12). -/
def State.slot (s : State) (slot : Slot) : Option State :=
  let after := s.runSlot slot
  let answered := after.1.answer (slotAnswer slot after.2)
  if s.nextSlot = some slot then answered.advance slot after.2 else some answered

/-- A byte operation called outside an acquisition; the one driver refuses a second call while it is busy (log 13). -/
def State.callByte (s : State) (c : ByteCall) : Result :=
  if s.driverBusy then .refused .driverBusy else .next ((s.answer .none).startByteCall c)

end Sys2Proof.Machine
end

