-- ==== Sys2Proof/Machine/Bus.lean ====
section
/-! DEFINITION. The bus-event handlers (41_bus_engine.md R121 to R126). Each is one atomic step (R120). -/

namespace Sys2Proof.Machine

/-- Starting a message where `startsMessage` allows it; "no change" otherwise (R121). -/
def State.startMessage (s : State) : State :=
  if s.startsMessage then { s with busState := .writeRequested, rxCount := 0 } else s

/-- WriteRequested (R121). -/
def execWr (s : State) : Result := .next (s.answer .none).startMessage

/-- Storing a received byte, or BufferOverflowError with the byte dropped (R122). -/
def State.receive (s : State) (b : Byte) : Option State :=
  if s.busState ≠ .writeRequested then some s
  else if s.rxCount < s.params.rxCap then
    (s.mem.write .rx s.rxCount [b]).map fun m => { s with mem := m, rxCount := s.rxCount + 1 }
  else some (s.fail .bufferOverflow)

/-- ByteReceived(b) (R122). -/
def execRx (b : Byte) (s : State) : Result := finish ((s.answer .none).receive b)

/-- WriteComplete (R123): nothing to complete outside WriteRequested. -/
def execWc (s : State) : Result :=
  if s.busState ≠ .writeRequested then .next (s.answer .none) else finish (s.answer .none).completeMessage

/-- A failed read: the failure procedure, "then emit(draw8())", in one step (R125). -/
def State.failRead (s : State) (kind : ErrorKind) : State := ((s.fail kind).answer (.byte s.drawByte)).countDraw

/-- The byte a ReadRequested emits (R125). -/
def State.emitByte (s : State) : Option State :=
  if s.busState = .readRequested then
    if s.txCount < s.txLength then
      (s.mem.peek .tx s.txCount).map fun b => { s.answer (.byte b) with txCount := s.txCount + 1 }
    else some (s.failRead .overRead)
  else some (s.failRead .readState)

/-- ReadRequested (R125). -/
def execRd (s : State) : Result := finish s.emitByte

/-- StopCondition (R126): Idle from every state, without error. -/
def execSp (s : State) : Result := .next { s.answer .none with busState := .idle }

/-- ACCEPT: the verdict of `Accept(L)`, which writes nothing of the block (R124). -/
def execAccept (expected : Nat) (s : State) : Result :=
  finish ((s.acceptance expected).map fun v => s.answer (.verdict v))

end Sys2Proof.Machine
end

