-- ==== Sys2Proof/Machine/Codec.lean ====
section
/-! DEFINITION. The codec operations (40_integrity_codec.md R103 to R106): pure functions of their operands, computed in the build's
INTEGRITY_MODE (R107); they give an answer and write nothing of the block (log 21). -/

namespace Sys2Proof.Machine

/-- The answer of accumulate (R103). -/
def answerAccumulate (v : Variant) (acc b : Byte) (s : State) : Result :=
  .next (s.answer (.byte (accumulate s.params.integrityMode v acc b)))

/-- The answer of crc (R104). -/
def answerCrc (v : Variant) (bytes : List Byte) (s : State) : Result :=
  .next (s.answer (.byte (crc s.params.integrityMode v bytes)))

/-- The answer of append: the buffer with its CRC in place (R105). -/
def answerAppend (v : Variant) (buf : List Byte) (len : Nat) (s : State) : Result :=
  match append s.params.integrityMode v buf len with
  | some out => .next (s.answer (.bytes out))
  | none => .refused .shortBuffer

/-- The answer of verify (R106). -/
def answerVerify (v : Variant) (buf : List Byte) (len : Nat) (s : State) : Result :=
  match verify s.params.integrityMode v buf len with
  | some ok => .next (s.answer (.flag ok))
  | none => .refused .shortBuffer

/-- accumulate_PEC (R103). -/
def execAccumulatePec (acc b : Byte) (s : State) : Result := answerAccumulate .pec acc b s

/-- crc_PEC (R104). -/
def execCrcPec (bytes : List Byte) (s : State) : Result := answerCrc .pec bytes s

/-- append_PEC (R105). -/
def execAppendPec (buf : List Byte) (len : Nat) (s : State) : Result := answerAppend .pec buf len s

/-- verify_PEC (R106). -/
def execVerifyPec (buf : List Byte) (len : Nat) (s : State) : Result := answerVerify .pec buf len s

/-- accumulate_OW (R103). -/
def execAccumulateOw (acc b : Byte) (s : State) : Result := answerAccumulate .ow acc b s

/-- crc_OW (R104). -/
def execCrcOw (bytes : List Byte) (s : State) : Result := answerCrc .ow bytes s

/-- append_OW (R105). -/
def execAppendOw (buf : List Byte) (len : Nat) (s : State) : Result := answerAppend .ow buf len s

/-- verify_OW (R106). -/
def execVerifyOw (buf : List Byte) (len : Nat) (s : State) : Result := answerVerify .ow buf len s

end Sys2Proof.Machine
end

