-- ==== Sys2Proof/Machine/Commands.lean ====
section
/-! DEFINITION. The commands of the dispatcher (42_command_dispatch.md R151 to R155), on the message and the snapshot the state holds.
WriteComplete runs them as part of its own step (R150); posted alone they are that part of it (log 21). -/

namespace Sys2Proof.Machine

/-- SETCHANNELS (R151). -/
def execSetChannels (form : Form) (s : State) : Result := finish ((s.answer .none).applyChannels form)

/-- GET_TEMP (R152). -/
def execGetTemp (s : State) : Result := finish ((s.answer .none).respond (tempPayload s.snapshot))

/-- GET_AIR_TEMP_HUMIDITY (R153). -/
def execGetAirTempHumidity (s : State) : Result := finish ((s.answer .none).respond (airPayload s.snapshot))

/-- GET_DEPTH (R154). -/
def execGetDepth (s : State) : Result := finish ((s.answer .none).respond (depthPayload s.snapshot))

/-- The unrecognized command: UnknownCommandError (R155). -/
def execUnrecognized (s : State) : Result := .next ((s.answer .none).fail .unknownCommand)

end Sys2Proof.Machine
end

