-- ==== Sys2Proof/Machine/OneWire.lean ====
section
/-! DEFINITION. The one-wire operations (43_onewire_driver.md R172 to R177; the function codes of R77). A slot is one step; a byte
operation and an acquisition are started by their operation and run on in the slots that follow (R170, log 11). -/

namespace Sys2Proof.Machine

/-- OW_RESET: the reset slot (R172). -/
def execOwReset (s : State) : Result := finish (s.slot .reset)

/-- OW_WRITEBIT: the write slot (R173). -/
def execOwWriteBit (b : Bool) (s : State) : Result := finish (s.slot (.write b))

/-- OW_READBIT: the read slot (R174). -/
def execOwReadBit (s : State) : Result := finish (s.slot .read)

/-- OW_WRITEBYTE: writeByte(v), eight slots from the next MainLoop step on (R175). -/
def execOwWriteByte (v : Byte) (s : State) : Result := s.callByte (.write v)

/-- OW_READBYTE: readByte(), eight slots from the next MainLoop step on (R176). -/
def execOwReadByte (s : State) : Result := s.callByte .read

/-- SKIP_ROM: sending 0xCC (R77, R175). -/
def execSkipRom (s : State) : Result := s.callByte (.write skipRomCode)

/-- CONVERT_T: sending 0x44 (R77, R175). -/
def execConvertT (s : State) : Result := s.callByte (.write convertTCode)

/-- READ_SCRATCHPAD: sending 0xBE (R77, R175). -/
def execReadScratchpad (s : State) : Result := s.callByte (.write readScratchpadCode)

/-- ACQUIRE_TEMPERATURE: started when `owSeq` is OW_IDLE or OW_DONE (R177); a second start mid-run is refused (R217). -/
def execAcquireTemperature (s : State) : Result :=
  if s.acquiring then .refused .acquisitionRunning else .next (s.answer .none).startAcquisition

end Sys2Proof.Machine
end

