-- ==== Sys2Proof/Machine/Ports.lean ====
section
/-! DEFINITION. The host ports (44_host_ports.md R211 to R215) and Reset (R260). Each is one atomic step (R210), and none is
privileged (R240). -/

namespace Sys2Proof.Machine

/-- QueryError: `return error` (R211). -/
def execQerr (s : State) : Result := .next (s.answer (.flag s.error))

/-- ClearError (R212). -/
def execClr (s : State) : Result := .next (s.answer .none).clearError

/-- SetEnable(v) (R213). -/
def execEn (v : Bool) (s : State) : Result := .next ((s.answer .none).setEnable v)

/-- PublishSnapshot(snap): the whole record in one step (R214). -/
def execPub (snap : Snapshot) (s : State) : Result := .next { s.answer .none with snapshot := snap }

/-- ReadChannels: `return ChannelBank` (R215). -/
def execChan (s : State) : Result := .next (s.answer (.bytes s.mem.bank))

/-- The index spaces after Reset: the bank zero, the other three unspecified, so free bytes (R260, log 6). -/
def resetMemory (p : Params) (draws : Nat) : Memory :=
  { rx := freeBytes draws p.rxCap
    tx := freeBytes (draws + p.rxCap) p.txCap
    bank := List.replicate p.channels 0
    scratch := freeBytes (draws + p.rxCap + p.txCap) scratchCap }

/-- Reset (R260): every element to its reset value; the parameters stay, and so does what the environment holds (log 22). -/
def State.resetAction (s : State) : State :=
  { State.resetWith s.params with
    mem := resetMemory s.params s.draws
    draws := s.draws + (s.params.rxCap + s.params.txCap + scratchCap)
    inbox := s.inbox
    turns := s.turns
    line := s.line }

/-- RST (R260). -/
def execRst (s : State) : Result := .next s.resetAction

end Sys2Proof.Machine
end

