-- ==== Sys2Proof/Machine/Dispatch.lean ====
section
/-! DEFINITION. One arm per operation: the meaning it calls. -/

namespace Sys2Proof.Machine

/-- The meaning of an operation. -/
def exec (i : Instr) (s : State) : Host.Outcome State Fault Refusal :=
  match i with
  | .wr => Sys2Proof.Machine.execWr s
  | .rx b => Sys2Proof.Machine.execRx b s
  | .wc => Sys2Proof.Machine.execWc s
  | .rd => Sys2Proof.Machine.execRd s
  | .sp => Sys2Proof.Machine.execSp s
  | .accept expected => Sys2Proof.Machine.execAccept expected s
  | .setChannels form => Sys2Proof.Machine.execSetChannels form s
  | .getTemp => Sys2Proof.Machine.execGetTemp s
  | .getAirTempHumidity => Sys2Proof.Machine.execGetAirTempHumidity s
  | .getDepth => Sys2Proof.Machine.execGetDepth s
  | .unrecognized => Sys2Proof.Machine.execUnrecognized s
  | .accumulatePec acc b => Sys2Proof.Machine.execAccumulatePec acc b s
  | .crcPec bytes => Sys2Proof.Machine.execCrcPec bytes s
  | .appendPec buf len => Sys2Proof.Machine.execAppendPec buf len s
  | .verifyPec buf len => Sys2Proof.Machine.execVerifyPec buf len s
  | .accumulateOw acc b => Sys2Proof.Machine.execAccumulateOw acc b s
  | .crcOw bytes => Sys2Proof.Machine.execCrcOw bytes s
  | .appendOw buf len => Sys2Proof.Machine.execAppendOw buf len s
  | .verifyOw buf len => Sys2Proof.Machine.execVerifyOw buf len s
  | .owReset => Sys2Proof.Machine.execOwReset s
  | .owWriteBit b => Sys2Proof.Machine.execOwWriteBit b s
  | .owReadBit => Sys2Proof.Machine.execOwReadBit s
  | .owWriteByte v => Sys2Proof.Machine.execOwWriteByte v s
  | .owReadByte => Sys2Proof.Machine.execOwReadByte s
  | .acquireTemperature => Sys2Proof.Machine.execAcquireTemperature s
  | .skipRom => Sys2Proof.Machine.execSkipRom s
  | .convertT => Sys2Proof.Machine.execConvertT s
  | .readScratchpad => Sys2Proof.Machine.execReadScratchpad s
  | .qerr => Sys2Proof.Machine.execQerr s
  | .clr => Sys2Proof.Machine.execClr s
  | .en v => Sys2Proof.Machine.execEn v s
  | .pub snap => Sys2Proof.Machine.execPub snap s
  | .chan => Sys2Proof.Machine.execChan s
  | .rst => Sys2Proof.Machine.execRst s

end Sys2Proof.Machine
end

