-- ==== Sys2Proof/Machine/Fetch.lean ====
section
/-! DEFINITION. Which operation the next step runs. The block "fetches no instructions" (R63): an operation is posted by the environment
(R5, R120, R210), or it is the one-wire slot the sequencer stands at (R170, R177). -/

namespace Sys2Proof.Machine

/-- What the next step has to do. -/
inductive Fetch where
  /-- An operation, on the state it is taken from. -/
  | run (i : Instr) (s : State)
  /-- Nothing is posted and no slot is due: "the BusEngine waits for the first event" (R261, log 25). -/
  | wait (s : State)
  /-- The posted bytes are no operation. -/
  | bad (e : DecodeError)
  deriving DecidableEq, Repr

/-- The operation that performs a slot. -/
def Slot.instr : Slot → Instr
  | .reset => .owReset
  | .write b => .owWriteBit b
  | .read => .owReadBit

/-- Taking the next posted operation. -/
def fetchPosted (s : State) : Fetch :=
  match s.inbox with
  | [] => .wait s
  | b :: bs =>
    match decode (b :: bs) with
    | .ok (i, rest) => .run i { s with inbox := rest }
    | .error e => .bad e

/-- Taking the MainLoop's next slot. -/
def fetchSlot (s : State) : Fetch :=
  match s.nextSlot with
  | none => .wait s
  | some slot => .run slot.instr s

/-- Whose turn it is: the schedule says, and where it says nothing the interrupt context goes first (R237, log 2). -/
def fetch (s : State) : Fetch :=
  match s.turns with
  | .posted :: ts => fetchPosted { s with turns := ts }
  | .slot :: ts => fetchSlot { s with turns := ts }
  | [] => if s.inbox = [] then fetchSlot s else fetchPosted s

/-- The state with the bytes of a table word posted and their turn come. -/
def State.postWord (s : State) (nbits w : Nat) : State :=
  { s with inbox := tableWordBytes nbits w, turns := .posted :: s.turns }

end Sys2Proof.Machine
end

