-- ==== Sys2Proof/Machine/Step.lean ====
section
/-! DEFINITION. One step of the machine (R11, R56). -/

namespace Sys2Proof.Machine

/-- One atomic step: the operation whose turn it is. A refused configuration has no meaning (R8, log 15). -/
def step (s : State) : Host.Outcome State Fault Refusal :=
  if s.params.admitted then
    match fetch s with
    | .run i t => exec i t
    | .wait t => .next t
    | .bad e => .refused (.undecodable e)
  else .refused .configuration

/-- `s` with the operation of a table word posted, to be taken by the very next step (log 3). -/
def State.withFetchWord (s : State) (nbits w : Nat) : State := s.postWord nbits w

end Sys2Proof.Machine
end

