-- ==== Sys2Proof/Machine/Environment.lean ====
section
/-! DEFINITION. What the agents outside the core do: the hardware layer's address match (R70), the messages it posts (R81, R218), the
sampling loop's duty (R216), and runs of several operations or slots (R272). -/

namespace Sys2Proof.Machine

/-- The address byte of a transaction: the address in bits 7..1, the direction in bit 0, 1 for read (R70). -/
def addressByte (addr : BitVec 7) (read : Bool) : Byte := addr ++ BitVec.ofBool read

/-- The event the hardware layer posts for an address byte: none unless it is addressed to SLAVE_ADDR (R218), WriteRequested for
direction 0 and ReadRequested for direction 1 (R70). -/
def addressEvent (p : Params) (b : Byte) : Option Instr :=
  if b.extractLsb' 1 7 = p.slaveAddr then some (if b.getLsbD 0 then .rd else .wr) else none

/-- `WRITE b0 b1 ... bk` (R81): WR, one RX per byte, WC. -/
def writeOps (bytes : List Byte) : List Instr := .wr :: (bytes.map .rx ++ [.wc])

/-- `READ n` (R81). -/
def readOps (n : Nat) : List Instr := List.replicate n .rd

/-- The bits of bytes on the one-wire line, least significant bit of each byte first (R78). -/
def wireBits (bytes : List Byte) : List Bool := bytes.flatMap fun b => (List.range 8).map b.getLsbD

/-- The stream of a list of operations. -/
def streamOf (ops : List Instr) : List Byte := ops.flatMap encode

/-- Operations one after another, stopping at the first fault or refusal (R272). -/
def runOps : List Instr → State → Result
  | [], s => .next s
  | i :: is, s =>
    match exec i s with
    | .next t => runOps is t
    | .fault r => .fault r
    | .refused r => .refused r

/-- One MainLoop step: the slot the sequencer stands at; nothing to do where the driver is at rest (R170). -/
def mainLoopStep (s : State) : Result :=
  match s.nextSlot with
  | none => .next s
  | some slot => exec slot.instr s

/-- `n` MainLoop steps. -/
def runSlots : Nat → State → Result
  | 0, s => .next s
  | n + 1, s =>
    match mainLoopStep s with
    | .next t => runSlots n t
    | .fault r => .fault r
    | .refused r => .refused r

/-- The bytes `n` ReadRequested events emit, in order (R125); nothing where one of them stops or emits no byte. -/
def emittedBytes : Nat → State → Option (List Byte)
  | 0, _ => some []
  | n + 1, s =>
    match exec .rd s with
    | .next t =>
      match t.result with
      | .byte b => (emittedBytes n t).map (b :: ·)
      | _ => none
    | .fault _ => none
    | .refused _ => none

/-- The sampling loop's duty on an acquisition's result (R216): publish the temperature on Ok, no new one on SensorReadError. That every
other field is copied, and that nothing at all is posted on SensorReadError, is a DESIGN CHOICE (log 28). -/
def samplingDuty (s : State) : Option Instr :=
  match s.owResult with
  | .ok t => some (.pub { s.snapshot with temperature := t })
  | .sensorReadError => none
  | .none => none

end Sys2Proof.Machine
end

