-- ==== Sys2Proof/Machine/Run.lean ====
section
/-! DEFINITION. Runs, finite and infinite (R59, R272). "Interleaving of the steps" is a sequence of steps between which the environment
posts, schedules and answers whatever it likes, without end (log 29). -/

namespace Sys2Proof.Machine

/-- What the environment adds before a step: operations posted, agents scheduled (R5), line samples answered (R171). -/
structure Supply where
  posted : List Instr
  turns : List Turn
  answers : List Bool
  deriving DecidableEq, Repr

/-- A state with the environment's addition, each list behind what still stands there. -/
def State.supplied (s : State) (e : Supply) : State :=
  { s with inbox := s.inbox ++ streamOf e.posted, turns := s.turns ++ e.turns, line := s.line ++ e.answers }

/-- A finite run and its end state, "the state after its last step" (R272). -/
def runSupplied : List Supply → State → Result
  | [], s => .next s
  | e :: es, s =>
    match step (s.supplied e) with
    | .next t => runSupplied es t
    | .fault r => .fault r
    | .refused r => .refused r

/-- An infinite run (R272): `states n` is the state before step `n`, `env n` what the environment adds there. It starts from `states 0`: the
reset state, or a state named explicitly. -/
def InfiniteRun (env : Nat → Supply) (states : Nat → State) : Prop :=
  ∀ n, step ((states n).supplied (env n)) = .next (states (n + 1))

/-- The states of the run from `s`, as long as its steps answer; from a step that stops on, the state before it. -/
def runStates (env : Nat → Supply) (s : State) : Nat → State
  | 0 => s
  | n + 1 =>
    match step ((runStates env s n).supplied (env n)) with
    | .next t => t
    | .fault _ => runStates env s n
    | .refused _ => runStates env s n

/-- "An acquisition ends when `owSeq = OW_DONE`" (R272). -/
def State.acquisitionEnded (s : State) : Bool := decide (s.owSeq = .done)

/-- Which agent takes a step (R5): whoever posts an operation, or the MainLoop at its slot, with the sensor's coming answers. -/
inductive AgentStep where
  | operation (i : Instr)
  | slot (answers : List Bool)
  deriving DecidableEq, Repr

/-- The step an agent takes. -/
def AgentStep.outcome (a : AgentStep) (s : State) : Result :=
  match a with
  | .operation i => exec i s
  | .slot answers => mainLoopStep { s with line := s.line ++ answers }

/-- How the environment brings an agent's step about. -/
def AgentStep.supply : AgentStep → Supply
  | .operation i => { posted := [i], turns := [.posted], answers := [] }
  | .slot answers => { posted := [], turns := [.slot], answers := answers }

end Sys2Proof.Machine
end

