-- ==== Sys2Proof/Safety.lean ====
section
/-! DEFINITION. The invariants of the machine (R24, R27, R51, R129) and what a frame is, in the terms the statements use. -/

namespace Sys2Proof.Machine

/-- The invariant of the machine: an admitted configuration (R6 to R8), every index space at its capacity (R50, R51), the counters in
bounds (R24, R27, R129), and a response of 3 or 5 bytes wherever one is being read (R129). -/
structure State.Inv (s : State) : Prop where
  admitted : s.params.admitted = true
  memory : s.mem.wf s.params = true
  rxBound : s.rxCount ≤ s.params.rxCap
  txSent : s.txCount ≤ s.txLength
  txBound : s.txLength ≤ s.params.txCap
  response : s.busState = .readRequested → s.txLength = 3 ∨ s.txLength = 5

/-- The bus engine's elements (R22 to R29) of two states are equal. -/
structure SameBus (s t : State) : Prop where
  busState : t.busState = s.busState
  rxCount : t.rxCount = s.rxCount
  txLength : t.txLength = s.txLength
  txCount : t.txCount = s.txCount
  enable : t.enable = s.enable
  error : t.error = s.error

/-- The one-wire driver's elements (R31, R33), the model's locals of it among them, are equal. -/
structure SameDriver (s t : State) : Prop where
  owSeq : t.owSeq = s.owSeq
  bitIndex : t.bitIndex = s.bitIndex
  byteIndex : t.byteIndex = s.byteIndex
  pollCount : t.pollCount = s.pollCount
  owResult : t.owResult = s.owResult
  owDrive : t.owDrive = s.owDrive
  owByte : t.owByte = s.owByte
  owOk : t.owOk = s.owOk
  owCall : t.owCall = s.owCall

/-- Every byte of every index space but `sp` reads as before. -/
def SameBytesBut (sp : Space) (s t : State) : Prop := ∀ sp' k, sp' ≠ sp → t.mem.peek sp' k = s.mem.peek sp' k

/-- Every byte of every index space reads as before. -/
def SameBytes (s t : State) : Prop := ∀ sp k, t.mem.peek sp k = s.mem.peek sp k

/-- The operation that is a command's own effect (R150 to R154). -/
def commandInstr : Command → Form → Instr
  | .setChannels, form => .setChannels form
  | .getTemp, _ => .getTemp
  | .getAirTempHumidity, _ => .getAirTempHumidity
  | .getDepth, _ => .getDepth

/-- The payload of a command's response (R74); SETCHANNELS has none. -/
def commandPayload (snap : Snapshot) : Command → List Byte
  | .setChannels => []
  | .getTemp => tempPayload snap
  | .getAirTempHumidity => airPayload snap
  | .getDepth => depthPayload snap

/-- The state of the same machine built with another INTEGRITY_MODE (R107). -/
def State.withMode (s : State) (mode : IntegrityMode) : State := { s with params := { s.params with integrityMode := mode } }

/-- The state with its error flag at a given value. -/
def State.withError (s : State) (e : Bool) : State := { s with error := e }

/-- An outcome with its next state changed. -/
def mapNext (f : State → State) : Result → Result
  | .next s => .next (f s)
  | .fault r => .fault r
  | .refused r => .refused r

/-- `t` is reached from `s` by finitely many steps. -/
inductive Reaches : State → State → Prop where
  | refl (s : State) : Reaches s s
  | tail {s t u : State} (h : Reaches s t) (hs : step t = .next u) : Reaches s u

end Sys2Proof.Machine
end

