-- ==== Sys2Proof/Certificates/Slice0/Obligations.lean ====
section
/-! DEFINITION. The statements for the provers. Each docstring names the rule of spec/ it formalises, or says which choice of the model
it rests on. "Inv" is `State.Inv` (Safety.lean); its truth at reset and its keeping by every step are statements of their own. Where a
rule gives an operation a result, it stands in the model's field `result` (log 9); that an operation with none leaves `.none` there is the
model's. -/

open Sys2Proof Sys2Proof.Machine

/-! ### The CRC-8 generator -/

/-- R101, R102: the printed tables have 256 entries and are those of the two loops. -/
def Obligations.CrcTablesMatchTheirLoops : Prop :=
  tablePec.length = 256 ∧ tableOw.length = 256 ∧
    ∀ i : Byte, crcEntry .pec i = rounds pecRound 8 i ∧ crcEntry .ow i = rounds owRound 8 i

/-- R107: the direct computation gives the table's result for every accumulator, byte and sequence. -/
def Obligations.DirectModeAgreesWithTable : Prop :=
  (∀ v s b, accumulate .direct v s b = crcEntry v (s ^^^ b)) ∧ ∀ v bytes, crc .direct v bytes = crc .table v bytes

/-- R107: "the two modes cannot be told apart by any observation": every step of the machine is the same in both. -/
def Obligations.StepSameInBothIntegrityModes : Prop :=
  ∀ s : State, step (s.withMode .direct) = mapNext (fun t => t.withMode .direct) (step (s.withMode .table))

/-- R103: accumulate answers `T_V[s XOR b]` in either mode, and writes nothing else. -/
def Obligations.AccumulateAnswersTableEntry : Prop :=
  ∀ (acc b : Byte) s, exec (.accumulatePec acc b) s = .next { s with result := .byte (crcEntry .pec (acc ^^^ b)) } ∧
    exec (.accumulateOw acc b) s = .next { s with result := .byte (crcEntry .ow (acc ^^^ b)) }

/-- R104: crc answers the fold of `T_V` from the seed, 0xFF or 0x00, and writes nothing else. -/
def Obligations.CrcAnswersFoldFromSeed : Prop :=
  ∀ (bytes : List Byte) s,
    exec (.crcPec bytes) s = .next { s with result := .byte (bytes.foldl (fun acc b => crcEntry .pec (acc ^^^ b)) 0xFF) } ∧
    exec (.crcOw bytes) s = .next { s with result := .byte (bytes.foldl (fun acc b => crcEntry .ow (acc ^^^ b)) 0x00) }

/-- R105: append answers the buffer with its byte at `len` the CRC of the bytes below, every other byte unchanged, and writes nothing else. -/
def Obligations.AppendWritesTrailingCrc : Prop :=
  ∀ (data tail : List Byte) (x : Byte) s,
    exec (.appendPec (data ++ x :: tail) data.length) s =
        .next { s with result := .bytes (data ++ data.foldl (fun acc b => crcEntry .pec (acc ^^^ b)) 0xFF :: tail) } ∧
      exec (.appendOw (data ++ x :: tail) data.length) s =
        .next { s with result := .bytes (data ++ data.foldl (fun acc b => crcEntry .ow (acc ^^^ b)) 0x00 :: tail) }

/-- R106: verify answers whether the byte at `len` is the CRC of the bytes below, and writes nothing else. -/
def Obligations.VerifyComparesTrailingCrc : Prop :=
  ∀ (data tail : List Byte) (x : Byte) s,
    exec (.verifyPec (data ++ x :: tail) data.length) s =
        .next { s with result := .flag (decide (data.foldl (fun acc b => crcEntry .pec (acc ^^^ b)) 0xFF = x)) } ∧
      exec (.verifyOw (data ++ x :: tail) data.length) s =
        .next { s with result := .flag (decide (data.foldl (fun acc b => crcEntry .ow (acc ^^^ b)) 0x00 = x)) }

/-- The model's choice (log 14): append and verify stop by name on a buffer with no byte at `len`, which their operand rules (R105, R106)
exclude. -/
def Obligations.ShortBufferRefused : Prop :=
  ∀ (buf : List Byte) len s, buf.length ≤ len →
    ∀ i, i = Instr.appendPec buf len ∨ i = Instr.appendOw buf len ∨ i = Instr.verifyPec buf len ∨ i = Instr.verifyOw buf len →
      exec i s = .refused .shortBuffer

/-- R108: append and then verify gives true, for every sequence, placeholder, variant and mode. -/
def Obligations.AppendThenVerifyHolds : Prop :=
  ∀ mode v (b : List Byte) (x : Byte), ∃ out, append mode v (b ++ [x]) b.length = some out ∧ verify mode v out b.length = some true

/-- R109: changing any one byte of a verified buffer, the CRC byte among them, makes verify false. -/
def Obligations.SingleByteCorruptionDetected : Prop :=
  ∀ mode v (buf : List Byte) n k (x : Byte), buf.length = n + 1 → verify mode v buf n = some true → k ≤ n → buf[k]? ≠ some x →
    verify mode v (buf.set k x) n = some false

/-! ### The bus events -/

/-- R121: WriteRequested, from every state. -/
def Obligations.WriteRequestedStartsMessage : Prop :=
  ∀ s, exec .wr s = .next (if s.enable = true ∧ (s.busState = .idle ∨ s.busState = .writeReadRequested) then
    { s with result := .none, busState := .writeRequested, rxCount := 0 } else { s with result := .none })

/-- R122: outside WriteRequested the byte is ignored; below RX_CAP it is stored and counted and no other byte changes; at RX_CAP it is
dropped and the failure procedure runs. -/
def Obligations.ByteReceivedStoresOrOverflows : Prop :=
  ∀ s b, s.Inv →
    (s.busState ≠ .writeRequested → exec (.rx b) s = .next { s with result := .none }) ∧
    (s.busState = .writeRequested → s.rxCount = s.params.rxCap →
      exec (.rx b) s = .next { s with result := .none, error := true, busState := .idle }) ∧
    (s.busState = .writeRequested → s.rxCount < s.params.rxCap →
      ∃ m, exec (.rx b) s = .next { s with result := .none, mem := m, rxCount := s.rxCount + 1 } ∧
        m.peek .rx s.rxCount = some b ∧ (∀ k, k ≠ s.rxCount → m.peek .rx k = s.mem.peek .rx k) ∧
        ∀ sp k, sp ≠ .rx → m.peek sp k = s.mem.peek sp k)

/-- R124: the four arms of Accept(L), for every L and every state that meets the invariant; ACCEPT writes nothing of the block. -/
def Obligations.AcceptDecidesByLengthAndPec : Prop :=
  ∀ s l, s.Inv →
    ∃ v, exec (.accept l) s = .next { s with result := .verdict v } ∧
      (s.rxCount = l → v = .acceptedShort) ∧
      (s.rxCount = l + 1 → verify s.params.integrityMode .pec s.mem.rx l = some true → v = .acceptedLong) ∧
      (s.rxCount = l + 1 → verify s.params.integrityMode .pec s.mem.rx l = some false → v = .rejected .integrity) ∧
      (s.rxCount ≠ l → s.rxCount ≠ l + 1 → v = .rejected .protocolLength)

/-- R123, R150: WriteComplete of an accepted message has the effect of its command, in the same step. -/
def Obligations.WriteCompleteRunsAcceptedCommand : Prop :=
  ∀ s op c form, s.Inv → s.busState = .writeRequested → s.mem.peek .rx 0 = some op → commandOf s.params op = some c →
    s.acceptance (expectedLength s.params c) = some (match form with
      | .short => .acceptedShort
      | .long => .acceptedLong) →
    ∃ t, exec .wc s = .next t ∧ exec (commandInstr c form) s = .next t

/-- R123, R231: outside WriteRequested nothing happens; an empty message, an unrecognized command, a rejected length or integrity byte and a
SETCHANNELS without integrity byte run the failure procedure, which sets `error`, returns to Idle and changes nothing else. -/
def Obligations.WriteCompleteRejects : Prop :=
  ∀ s, s.Inv →
    (s.busState ≠ .writeRequested → exec .wc s = .next { s with result := .none }) ∧
    (s.busState = .writeRequested →
      (s.rxCount = 0 ∨ ∃ op, s.mem.peek .rx 0 = some op ∧ (commandOf s.params op = none ∨
        ∃ c, commandOf s.params op = some c ∧ ((∃ k, s.acceptance (expectedLength s.params c) = some (.rejected k)) ∨
          (c = .setChannels ∧ s.acceptance (expectedLength s.params c) = some .acceptedShort)))) →
      exec .wc s = .next { s with result := .none, error := true, busState := .idle })

/-- R125: the next response byte, or the failure procedure and a free byte. It holds for every value of the free byte. -/
def Obligations.ReadRequestedEmitsOrFails : Prop :=
  ∀ s, s.Inv →
    (s.busState = .readRequested → s.txCount < s.txLength →
      ∃ b, s.mem.peek .tx s.txCount = some b ∧ exec .rd s = .next { s with result := .byte b, txCount := s.txCount + 1 }) ∧
    (s.busState = .readRequested → s.txCount = s.txLength →
      ∃ b, exec .rd s = .next { s with result := .byte b, error := true, busState := .idle, draws := s.draws + 1 }) ∧
    (s.busState ≠ .readRequested →
      ∃ b, exec .rd s = .next { s with result := .byte b, error := true, busState := .idle, draws := s.draws + 1 })

/-- R126: StopCondition, from every state. -/
def Obligations.StopReturnsToIdle : Prop :=
  ∀ s, exec .sp s = .next { s with result := .none, busState := .idle }

/-! ### The commands -/

/-- R72, R75: a first byte selects a command exactly when it is that command's parameter, and nothing otherwise. -/
def Obligations.CommandByteSelectsOneCommand : Prop :=
  ∀ p op, p.admitted = true → (∀ c, commandOf p op = some c ↔ op = opcodeOf p c) ∧
    (commandOf p op = none ↔ ∀ c, op ≠ opcodeOf p c)

/-- R152, R153, R154, R74: each GET_* handler writes its fields big-endian and their PEC from index 0 of txBuffer, sets the counters and the
state, and changes nothing else. -/
def Obligations.ResponsesArePrepared : Prop :=
  ∀ s i (payload : List Byte), s.Inv →
    (i = Instr.getTemp ∧ payload =
        [s.snapshot.temperature.rawRegister.extractLsb' 8 8, s.snapshot.temperature.rawRegister.extractLsb' 0 8] ∨
      i = Instr.getAirTempHumidity ∧ payload =
        [s.snapshot.humidity.temperature.extractLsb' 8 8, s.snapshot.humidity.temperature.extractLsb' 0 8,
          s.snapshot.humidity.humidity.extractLsb' 8 8, s.snapshot.humidity.humidity.extractLsb' 0 8] ∨
      i = Instr.getDepth ∧ payload = [s.snapshot.depth.extractLsb' 8 8, s.snapshot.depth.extractLsb' 0 8]) →
    ∃ m, exec i s = .next { s with
        result := .none, mem := m, txLength := payload.length + 1, txCount := 0, busState := .readRequested } ∧
      (∀ k, k < payload.length → m.peek .tx k = payload[k]?) ∧
      m.peek .tx payload.length = some (crc s.params.integrityMode .pec payload) ∧
      (∀ k, payload.length < k → m.peek .tx k = s.mem.peek .tx k) ∧
      ∀ sp k, sp ≠ .tx → m.peek sp k = s.mem.peek sp k

/-- R151, on the message of L + 1 received bytes that its long form is (R150): without integrity byte, or with a wrong one, SETCHANNELS fails
and no byte changes; otherwise channel i takes rxBuffer[1 + i] for every channel in one step. A posted long form on any other count is
UnrecognizedCommandFails. -/
def Obligations.SetChannelsAppliesAllOrNothing : Prop :=
  ∀ s, s.Inv →
    exec (.setChannels .short) s = .next { s with result := .none, error := true, busState := .idle } ∧
    (s.rxCount = s.params.channels + 2 → verify s.params.integrityMode .pec s.mem.rx (1 + s.params.channels) = some false →
      exec (.setChannels .long) s = .next { s with result := .none, error := true, busState := .idle }) ∧
    (s.rxCount = s.params.channels + 2 → verify s.params.integrityMode .pec s.mem.rx (1 + s.params.channels) = some true →
      ∃ m, exec (.setChannels .long) s = .next { s with result := .none, mem := m, busState := .idle } ∧
        (∀ k, k < s.params.channels → m.peek .bank k = s.mem.peek .rx (1 + k)) ∧
        ∀ sp k, sp ≠ .bank → m.peek sp k = s.mem.peek sp k)

/-- R155, R231: the unrecognized command sets `error`, returns to Idle and changes nothing else. That SETCHANNELS does the same when it is
posted alone in a long form for which other than NUM_CHANNELS + 2 bytes have been received, and so reads no byte at or above rxCount (R51), is
the model's choice (log 21). -/
def Obligations.UnrecognizedCommandFails : Prop :=
  ∀ s, exec .unrecognized s = .next { s with result := .none, error := true, busState := .idle } ∧
    (s.rxCount ≠ s.params.channels + 2 →
      exec (.setChannels .long) s = .next { s with result := .none, error := true, busState := .idle })

/-- R73, R74, R156: a whole GET_* transaction, in the short form or with its valid integrity byte: the read that follows emits the fields
big-endian, most significant byte first, and their PEC, and neither the write nor the reads change `error`. -/
def Obligations.GetTransactionAnswersSnapshot : Prop :=
  ∀ s c msg, s.Inv → s.busState = .idle → s.enable = true → c ≠ .setChannels →
    (msg = [opcodeOf s.params c] ∨ msg = [opcodeOf s.params c, crc s.params.integrityMode .pec [opcodeOf s.params c]]) →
    ∃ t, runOps (writeOps msg) s = .next t ∧ t.busState = .readRequested ∧ t.error = s.error ∧ t.snapshot = s.snapshot ∧
      (∃ u, runOps (readOps ((commandPayload s.snapshot c).length + 1)) t = .next u ∧ u.error = s.error ∧ u.busState = .readRequested) ∧
      emittedBytes ((commandPayload s.snapshot c).length + 1) t =
        some (commandPayload s.snapshot c ++ [crc s.params.integrityMode .pec (commandPayload s.snapshot c)])

/-- R73, R151: a whole SETCHANNELS message applies its intensities exactly when it carries the right integrity byte; a wrong one, or none,
leaves the bank and sets `error`. -/
def Obligations.SetChannelsMessageNeedsItsPec : Prop :=
  ∀ s (vals : List Byte) (x : Byte), s.Inv → s.busState = .idle → s.enable = true → vals.length = s.params.channels →
    (∃ t, runOps (writeOps (s.params.opSetChannels :: (vals ++ [x]))) s = .next t ∧ t.busState = .idle ∧
      (x = crc s.params.integrityMode .pec (s.params.opSetChannels :: vals) → t.mem.bank = vals ∧ t.error = s.error) ∧
      (x ≠ crc s.params.integrityMode .pec (s.params.opSetChannels :: vals) → t.mem.bank = s.mem.bank ∧ t.error = true)) ∧
    ∃ t, runOps (writeOps (s.params.opSetChannels :: vals)) s = .next t ∧ t.busState = .idle ∧ t.mem.bank = s.mem.bank ∧
      t.error = true

/-- R155: a message with an unrecognized first byte fails whatever its length and its integrity byte. -/
def Obligations.UnknownMessageFails : Prop :=
  ∀ s op (rest : List Byte), s.Inv → s.busState = .idle → s.enable = true → commandOf s.params op = none →
    rest.length + 1 ≤ s.params.rxCap →
    ∃ t, runOps (writeOps (op :: rest)) s = .next t ∧ t.busState = .idle ∧ t.error = true ∧ t.mem.bank = s.mem.bank ∧
      t.mem.tx = s.mem.tx ∧ t.snapshot = s.snapshot

/-- R122, R123: a message longer than RX_CAP sets `error`, is never dispatched, and leaves the engine Idle. -/
def Obligations.OverflowDiscardsMessage : Prop :=
  ∀ s (bytes : List Byte), s.Inv → s.busState = .idle → s.enable = true → s.params.rxCap < bytes.length →
    ∃ t, runOps (writeOps bytes) s = .next t ∧ t.busState = .idle ∧ t.error = true ∧ t.mem.bank = s.mem.bank ∧
      t.mem.tx = s.mem.tx ∧ t.rxCount = s.params.rxCap

/-- R157: a GET_* handler does the same whatever the error flag is, and leaves the flag. -/
def Obligations.ResponsesIgnoreErrorFlag : Prop :=
  ∀ s e c form, c ≠ Command.setChannels →
    exec (commandInstr c form) (s.withError e) = mapNext (fun t => t.withError e) (exec (commandInstr c form) s)

/-! ### The one-wire driver -/

/-- R172, R173, R174, with the model's slot out of sequence (log 12): every slot ends with the line released; a reset answers presence, the
sample being 0; a read answers the sample; a write samples nothing. A read slot that ends a byte of READSP stores it at scratch[byteIndex]
(R176, R180), and no other slot writes any byte. A slot other than the one the driver stands at moves no position and no counter. The bus engine
and the snapshot never change. -/
def Obligations.SlotsDriveAndSampleTheLine : Prop :=
  ∀ s, s.Inv →
    (∃ t, exec .owReset s = .next t ∧ t.owDrive = .released ∧ t.result = .flag (!s.sensorAnswer) ∧ t.line = s.line.tail ∧
      SameBus s t ∧ t.snapshot = s.snapshot ∧ SameBytes s t) ∧
    (∀ b, ∃ t, exec (.owWriteBit b) s = .next t ∧ t.owDrive = .released ∧ t.result = .none ∧ t.line = s.line ∧ t.draws = s.draws ∧
      SameBus s t ∧ t.snapshot = s.snapshot ∧ SameBytes s t) ∧
    (∃ t, exec .owReadBit s = .next t ∧ t.owDrive = .released ∧ t.result = .bit s.sensorAnswer ∧ t.line = s.line.tail ∧
      SameBus s t ∧ t.snapshot = s.snapshot ∧ SameBytesBut .scratch s t ∧
      (s.owSeq = .readSp → s.bitIndex = 7 →
        t.mem.peek .scratch s.byteIndex = some (assembleBit s.owByte 7 s.sensorAnswer) ∧
        ∀ k, k ≠ s.byteIndex.val → t.mem.peek .scratch k = s.mem.peek .scratch k) ∧
      (s.owSeq ≠ .readSp ∨ s.bitIndex ≠ 7 → SameBytes s t)) ∧
    (s.nextSlot ≠ some .reset →
      exec .owReset s = .next { s.countSample with owDrive := .released, result := .flag (!s.sensorAnswer) }) ∧
    (∀ b, s.nextSlot ≠ some (.write b) → exec (.owWriteBit b) s = .next { s with owDrive := .released, result := .none }) ∧
    (s.nextSlot ≠ some .read →
      exec .owReadBit s = .next { s.countSample with owDrive := .released, result := .bit s.sensorAnswer })

/-- R171 to R174: the waveform of each slot, event by event from its beginning. Every slot drives the line low at once. A reset releases it
after T_RSTL and samples T_PDS later; a write of 1 releases it after T_W1L; a write of 0 holds it low for the whole of T_SLOT; a read releases
it after T_RL and samples T_RS later. With its waits in order each slot lasts its whole slot time, and a read slot the sum of its parts. In the
nominal timings: 480 and 540 of 960, 5 of 60, 60 of 60, 1 and 15 of 60 microseconds. -/
def Obligations.SlotWaveformsLastTheirSlotTimes : Prop :=
  (∀ t : Timing, t.tRstl + t.tPds ≤ t.tRstSlot → t.tW1l ≤ t.tSlot →
    actsDuration (slotActs t .reset) = t.tRstSlot ∧ (∀ b, actsDuration (slotActs t (.write b)) = t.tSlot) ∧
      actsDuration (slotActs t .read) = t.tRl + t.tRs + t.tRrem) ∧
  (∀ t : Timing,
    lineEvents 0 (slotActs t .reset) = [.drives 0 .low, .drives t.tRstl .released, .samples (t.tRstl + t.tPds)] ∧
    lineEvents 0 (slotActs t (.write true)) = [.drives 0 .low, .drives t.tW1l .released] ∧
    (t.tW1l ≤ t.tSlot → lineEvents 0 (slotActs t (.write false)) = [.drives 0 .low, .drives t.tSlot .released]) ∧
    lineEvents 0 (slotActs t .read) = [.drives 0 .low, .drives t.tRl .released, .samples (t.tRl + t.tRs)]) ∧
  lineEvents 0 (slotActs .nominal .reset) = [.drives 0 .low, .drives 480 .released, .samples 540] ∧
  lineEvents 0 (slotActs .nominal (.write true)) = [.drives 0 .low, .drives 5 .released] ∧
  lineEvents 0 (slotActs .nominal (.write false)) = [.drives 0 .low, .drives 60 .released] ∧
  lineEvents 0 (slotActs .nominal .read) = [.drives 0 .low, .drives 1 .released, .samples 15] ∧
  actsDuration (slotActs .nominal .reset) = 960 ∧ (∀ b, actsDuration (slotActs .nominal (.write b)) = 60) ∧
    actsDuration (slotActs .nominal .read) = 60

/-- R177, R170, R77, R78: which slot is due at each position of the sequence, and how it moves it: RESET1 on presence to SKIP1 at its first bit
and without it to OW_DONE; SKIP1 and SKIP2 write 0xCC, CONVERT 0x44 and READCMD 0xBE, bit bitIndex in its slot, each counting bitIndex and after
its eighth bit going to the next; POLL reads until a 1; READSP reads, assembling the byte, and after its ninth byte goes to RESET3; RESET3 ends at OW_DONE. The
bytes are the spec's general knowledge (log 23); that bitIndex and byteIndex return to 0 after their last value is the model's choice (log
17). -/
def Obligations.SlotsFollowTheSequence : Prop :=
  ∀ s slot, s.Inv → s.params.pollLimit = none → s.nextSlot = some slot →
    ∃ t, exec slot.instr s = .next t ∧
      (s.owSeq = .reset1 → slot = .reset ∧ t.owSeq = (if s.sensorAnswer then .done else .skip1) ∧
        (s.sensorAnswer = false → t.bitIndex = 0)) ∧
      (s.owSeq = .skip1 → slot = .write ((0xCC : Byte).getLsbD s.bitIndex) ∧ t.bitIndex = s.bitIndex + 1 ∧
        t.owSeq = if s.bitIndex = 7 then .convert else .skip1) ∧
      (s.owSeq = .convert → slot = .write ((0x44 : Byte).getLsbD s.bitIndex) ∧ t.bitIndex = s.bitIndex + 1 ∧
        t.owSeq = if s.bitIndex = 7 then .poll else .convert) ∧
      (s.owSeq = .poll → slot = .read ∧ t.owSeq = (if s.sensorAnswer then .reset2 else .poll) ∧
        t.pollCount = if s.sensorAnswer then s.pollCount else s.pollCount + 1) ∧
      (s.owSeq = .reset2 → slot = .reset ∧ t.owSeq = .skip2 ∧ t.bitIndex = 0) ∧
      (s.owSeq = .skip2 → slot = .write ((0xCC : Byte).getLsbD s.bitIndex) ∧ t.bitIndex = s.bitIndex + 1 ∧
        t.owSeq = if s.bitIndex = 7 then .readCmd else .skip2) ∧
      (s.owSeq = .readCmd → slot = .write ((0xBE : Byte).getLsbD s.bitIndex) ∧ t.bitIndex = s.bitIndex + 1 ∧
        t.owSeq = if s.bitIndex = 7 then .readSp else .readCmd) ∧
      (s.owSeq = .readSp → slot = .read ∧ t.bitIndex = s.bitIndex + 1 ∧ t.owByte = assembleBit s.owByte s.bitIndex s.sensorAnswer ∧
        t.byteIndex = (if s.bitIndex = 7 then s.byteIndex + 1 else s.byteIndex) ∧
        t.owSeq = if s.bitIndex = 7 ∧ s.byteIndex = 8 then .reset3 else .readSp) ∧
      (s.owSeq = .reset3 → slot = .reset ∧ t.owSeq = .done)

/-- R175, R78, with the model's call that runs no slot (log 11): writeByte sends its eight bits least significant first, one slot each, and
then the driver is at rest. -/
def Obligations.WriteByteSendsLeastSignificantBitFirst : Prop :=
  ∀ s (v : Byte), s.driverBusy = false →
    ∃ t0, exec (.owWriteByte v) s = .next t0 ∧
      (∀ k, k < 8 → ∃ u, runSlots k t0 = .next u ∧ u.nextSlot = some (.write (v.getLsbD k))) ∧
      ∃ t, runSlots 8 t0 = .next t ∧ t.nextSlot = none ∧ t.owDrive = .released ∧ SameBus s t ∧ t.snapshot = s.snapshot ∧ SameBytes s t

/-- R77, with the model's call that runs no slot (log 11): the function codes skip ROM, convert temperature and read scratchpad are the
bytes 0xCC, 0x44 and 0xBE. -/
def Obligations.FunctionCodesSendTheirBytes : Prop :=
  ∀ s, s.driverBusy = false →
    (∃ t, exec .skipRom s = .next t ∧ exec (.owWriteByte 0xCC) s = .next t) ∧
    (∃ t, exec .convertT s = .next t ∧ exec (.owWriteByte 0x44) s = .next t) ∧
    ∃ t, exec .readScratchpad s = .next t ∧ exec (.owWriteByte 0xBE) s = .next t

/-- R176, R78, with the model's call that runs no slot (log 11): readByte assembles eight samples, the first the least significant bit, in
the model's `owByte` (log 10), and then the driver is at rest. -/
def Obligations.ReadByteAssemblesLeastSignificantBitFirst : Prop :=
  ∀ s (bits rest : List Bool), s.driverBusy = false → bits.length = 8 → s.line = bits ++ rest →
    ∃ t0 t, exec .owReadByte s = .next t0 ∧ runSlots 8 t0 = .next t ∧ (∀ i, i < 8 → bits[i]? = some (t.owByte.getLsbD i)) ∧
      t.line = rest ∧ t.nextSlot = none ∧ SameBus s t ∧ t.snapshot = s.snapshot ∧ SameBytes s t

/-- R177, R217, U15: an acquisition starts from OW_IDLE or OW_DONE, with no result yet, at RESET1; a second one started while one runs is
refused. That the start runs no slot, that it drops a byte call in progress, and that byte calls are refused too while the driver is busy, are
the model's choices (log 11, log 13). -/
def Obligations.AcquisitionStartsOnlyAtRest : Prop :=
  (∀ s, s.owSeq = .idle ∨ s.owSeq = .done →
    exec .acquireTemperature s = .next { s with result := .none, owResult := .none, owSeq := .reset1, owCall := none }) ∧
  (∀ s, s.owSeq ≠ .idle → s.owSeq ≠ .done → exec .acquireTemperature s = .refused .acquisitionRunning) ∧
  ∀ s i, s.driverBusy = true →
    (i = .owReadByte ∨ (∃ v, i = .owWriteByte v) ∨ i = .skipRom ∨ i = .convertT ∨ i = .readScratchpad) →
    exec i s = .refused .driverBusy

/-- R178, with the model's start that runs no slot (log 11): a first reset that finds no sensor ends the acquisition after that one slot,
with SensorReadError and no further slot. -/
def Obligations.AbsentSensorEndsAcquisition : Prop :=
  ∀ s rest, s.owSeq = .idle ∨ s.owSeq = .done → s.line = true :: rest →
    ∃ t0 t, exec .acquireTemperature s = .next t0 ∧ runSlots 1 t0 = .next t ∧ t.owResult = .sensorReadError ∧ t.owSeq = .done ∧
      t.nextSlot = none ∧ t.line = rest ∧ t.owDrive = .released ∧ SameBus s t ∧ t.snapshot = s.snapshot ∧ SameBytes s t

/-- R179: the unbounded poll stays as long as it reads 0, counting, for any number of polls, and leaves on the first 1. -/
def Obligations.PollWaitsForTheFirstOne : Prop :=
  ∀ s n rest, s.owSeq = .poll → s.params.pollLimit = none → s.line = List.replicate n false ++ rest →
    (∃ t, runSlots n s = .next t ∧ t.owSeq = .poll ∧ t.pollCount = s.pollCount + n ∧ t.owResult = s.owResult ∧ t.line = rest ∧
      SameBus s t ∧ t.snapshot = s.snapshot ∧ SameBytes s t) ∧
    ∀ rest', rest = true :: rest' →
      ∃ t, runSlots (n + 1) s = .next t ∧ t.owSeq = .reset2 ∧ t.pollCount = s.pollCount + n ∧ t.line = rest'

/-- R177, R180 to R182, with the model's start that runs no slot (log 11): a whole acquisition with the sensor present at the first reset:
`108 + pollCount` slots, the ninth byte checked against the CRC of the first eight, and the result decoded or SensorReadError. The bus
engine never changes. -/
def Obligations.AcquisitionRunsToItsResult : Prop :=
  ∀ s n (bytes : List Byte) r2 r3 rest, s.Inv → s.acquiring = false → s.params.pollLimit = none → bytes.length = 9 →
    s.line = false :: (List.replicate n false ++ true :: r2 :: (wireBits bytes ++ r3 :: rest)) →
    ∃ t0 u t, exec .acquireTemperature s = .next t0 ∧ runSlots (107 + n) t0 = .next u ∧ u.owSeq = .reset3 ∧ u.owResult = .none ∧
      runSlots (108 + n) t0 = .next t ∧ t.owSeq = .done ∧ t.pollCount = n ∧ t.mem.scratch = bytes ∧ t.line = rest ∧
      (verify s.params.integrityMode .ow bytes 8 = some true →
        t.owResult = .ok (decodeRaw (rawOf (bytes.getD 0 0) (bytes.getD 1 0)))) ∧
      (verify s.params.integrityMode .ow bytes 8 = some false → t.owResult = .sensorReadError) ∧
      SameBus s t ∧ t.snapshot = s.snapshot ∧ SameBytesBut .scratch s t

/-- R188, the variant that is not this hardware (log 18), with the model's start that runs no slot (log 11): with POLL_LIMIT = k, after the
k-th poll that reads 0, the final reset and SensorReadError, in `1 + 16 + k + 1` slots; scratch is never read. -/
def Obligations.PollLimitVariantEnds : Prop :=
  ∀ s k r3 rest, s.Inv → s.acquiring = false → s.params.pollLimit = some k →
    s.line = false :: (List.replicate k false ++ r3 :: rest) →
    ∃ t0 u t, exec .acquireTemperature s = .next t0 ∧ runSlots (17 + k) t0 = .next u ∧ u.owSeq = .reset3 ∧
      runSlots (18 + k) t0 = .next t ∧ t.owSeq = .done ∧ t.owResult = .sensorReadError ∧ t.line = rest ∧ SameBytes s t

/-- R183, R184, R185, R186, R190: the decode of a scratchpad, as numbers: the raw register of its first two bytes, the low byte first, all 16
bits kept; bits 11..4 unsigned; the low four bits times 625. Which bytes form the raw register is the spec's general knowledge (R183, D26, log
23). -/
def Obligations.DecodeIsUnsignedFixedPoint : Prop :=
  ∀ (lo hi : Byte) (rest : List Byte), ∃ t, decodeScratch (lo :: hi :: rest) = some t ∧
    t.rawRegister.toNat = hi.toNat * 256 + lo.toNat ∧ t.integerPart.toNat = t.rawRegister.toNat / 16 % 256 ∧
    t.fractionalPart.toNat = t.rawRegister.toNat % 16 * 625

/-- R189: nine 0x00 bytes pass the check and decode to zero; nine 0xFF bytes fail it. -/
def Obligations.ScratchpadCornerCases : Prop :=
  ∀ mode, verify mode .ow (List.replicate 9 0x00) 8 = some true ∧
    decodeScratch (List.replicate 9 0x00) = some { integerPart := 0, fractionalPart := 0, rawRegister := 0x0000 } ∧
    crc mode .ow (List.replicate 8 0xFF) = 0xC9 ∧ verify mode .ow (List.replicate 9 0xFF) 8 = some false

/-! ### The host ports, reset and the environment -/

/-- R211 to R215: the five ports, from every state. -/
def Obligations.HostPortsActAsStated : Prop :=
  ∀ s, exec .qerr s = .next { s with result := .flag s.error } ∧
    exec .clr s = .next { s with result := .none, error := false } ∧
    (∀ v, exec (.en v) s = .next { s with result := .none, enable := v }) ∧
    (∀ snap, exec (.pub snap) s = .next { s with result := .none, snapshot := snap }) ∧
    exec .chan s = .next { s with result := .bytes s.mem.bank }

/-- R260: Reset sets every element R37 gives a value, keeps the parameters, and leaves rxBuffer, txBuffer and scratch with some bytes of
their capacity. -/
def Obligations.ResetSetsEveryElement : Prop :=
  ∀ s, ∃ t, exec .rst s = .next t ∧ t.params = s.params ∧ t.busState = .idle ∧ t.rxCount = 0 ∧ t.txLength = 0 ∧ t.txCount = 0 ∧
    t.enable = true ∧ t.error = false ∧ t.mem.bank = List.replicate s.params.channels 0x00 ∧ t.snapshot = Snapshot.zero ∧
    t.owSeq = .idle ∧ t.bitIndex = 0 ∧ t.byteIndex = 0 ∧ t.pollCount = 0 ∧ t.owResult = .none ∧ t.owDrive = .released ∧
    t.mem.wf s.params = true

/-- R37, R260: the reset state, for every parameter value, at the values the spec gives. -/
def Obligations.ResetStateAsStated : Prop :=
  ∀ p, (State.resetWith p).busState = .idle ∧ (State.resetWith p).rxCount = 0 ∧ (State.resetWith p).txLength = 0 ∧
    (State.resetWith p).txCount = 0 ∧ (State.resetWith p).enable = true ∧ (State.resetWith p).error = false ∧
    (State.resetWith p).mem.bank = List.replicate p.channels 0x00 ∧ (State.resetWith p).snapshot = Snapshot.zero ∧
    (State.resetWith p).owSeq = .idle ∧ (State.resetWith p).bitIndex = 0 ∧ (State.resetWith p).byteIndex = 0 ∧
    (State.resetWith p).pollCount = 0 ∧ (State.resetWith p).owResult = .none ∧ (State.resetWith p).owDrive = .released

/-- R216, R214: on Ok(t) the sampling loop publishes a snapshot whose temperature is t; on SensorReadError no new temperature. That it copies
every other field from the current snapshot, and that on SensorReadError it posts no publication at all, are the model's choices (log 28). -/
def Obligations.SamplingDutyKeepsStaleValues : Prop :=
  ∀ s, (∀ t, s.owResult = .ok t → ∃ i, samplingDuty s = some i ∧
      exec i s = .next { s with result := .none, snapshot := { s.snapshot with temperature := t } }) ∧
    (s.owResult = .sensorReadError → samplingDuty s = none)

/-- R6 to R8: disabled integrity and a split channel count are refused; what is admitted has pairwise distinct OP_* values and a MAX_PAYLOAD of
max(4, NUM_CHANNELS - 1) to 32; and every such configuration, with POLL_LIMIT not 0 (R188), is admitted as it was asked for. That MAX_PAYLOAD
and POLL_LIMIT out of range are refused by name, and that the step refuses too, is the model's (log 15). -/
def Obligations.RefusedConfigurations : Prop :=
  (∀ c : BuildConfig, c.integrity = .disabled → c.accepted = .error .integrityDisabled) ∧
  (∀ c : BuildConfig, c.lengthChannels ≠ c.bankChannels → ∀ p, c.accepted ≠ .ok p) ∧
  (∀ c p, BuildConfig.accepted c = .ok p → p.admitted = true ∧ c.integrity ≠ .disabled ∧
    p.opSetChannels ≠ p.opGetTemp ∧ p.opSetChannels ≠ p.opGetAirTempHumidity ∧ p.opSetChannels ≠ p.opGetDepth ∧
    p.opGetTemp ≠ p.opGetAirTempHumidity ∧ p.opGetTemp ≠ p.opGetDepth ∧ p.opGetAirTempHumidity ≠ p.opGetDepth ∧
    4 ≤ p.maxPayload ∧ p.channels - 1 ≤ p.maxPayload ∧ p.maxPayload ≤ 32 ∧ p.pollLimit ≠ some 0) ∧
  (∀ (c : BuildConfig) mode, (c.integrity = .table ∧ mode = .table ∨ c.integrity = .direct ∧ mode = .direct) →
    c.lengthChannels = c.bankChannels →
    c.params.opSetChannels ≠ c.params.opGetTemp → c.params.opSetChannels ≠ c.params.opGetAirTempHumidity →
    c.params.opSetChannels ≠ c.params.opGetDepth → c.params.opGetTemp ≠ c.params.opGetAirTempHumidity →
    c.params.opGetTemp ≠ c.params.opGetDepth → c.params.opGetAirTempHumidity ≠ c.params.opGetDepth →
    4 ≤ c.params.maxPayload → c.bankChannels.count - 1 ≤ c.params.maxPayload → c.params.maxPayload ≤ 32 → c.params.pollLimit ≠ some 0 →
    c.accepted = .ok { c.params with integrityMode := mode, numChannels := c.bankChannels }) ∧
  ∀ s, s.params.admitted = false → step s = .refused .configuration

/-! ### The machine as a whole -/

/-- The model's step (log 1, log 2): with an admitted configuration and the turn of a posted operation, the step runs the operation the
stream opens with, on the state whose stream has gone past it and whose schedule has gone past this turn; posted bytes that are no operation
are refused by name. -/
def Obligations.StepRunsPostedOperation : Prop :=
  (∀ s i rest ts, s.params.admitted = true → decode s.inbox = .ok (i, rest) →
    (s.turns = .posted :: ts → step s = exec i { s with inbox := rest, turns := ts }) ∧
    (s.turns = [] → step s = exec i { s with inbox := rest })) ∧
  ∀ s e ts, s.params.admitted = true → s.inbox ≠ [] → decode s.inbox = .error e → (s.turns = .posted :: ts ∨ s.turns = []) →
    step s = .refused (.undecodable e)

/-- R170, R177 and the model's schedule (log 2): on the MainLoop's turn the step runs the slot the sequencer stands at; with nothing to run it
waits, and a turn the schedule gave is consumed (R261, log 25). -/
def Obligations.StepRunsDueSlot : Prop :=
  ∀ s, s.params.admitted = true →
    (∀ slot ts, s.nextSlot = some slot → s.turns = .slot :: ts → step s = exec slot.instr { s with turns := ts }) ∧
    (∀ slot, s.nextSlot = some slot → s.turns = [] → s.inbox = [] → step s = exec slot.instr s) ∧
    (s.nextSlot = none → s.turns = [] → s.inbox = [] → step s = .next s) ∧
    (∀ ts, s.nextSlot = none → s.turns = .slot :: ts → step s = .next { s with turns := ts }) ∧
    (∀ ts, s.inbox = [] → s.turns = .posted :: ts → step s = .next { s with turns := ts })

/-- R272, R187, with the model's environment between steps (log 29). The block never halts by itself: with nothing posted, a run goes on
forever under any schedule and any sensor. Every infinite interleaving of the agents' steps, from a state with nothing left posted or
scheduled, is an infinite run. An acquisition at its poll never ends in an infinite run whose samples are all 0, whatever bus events, host
ports but Reset, and slots are interleaved with it. -/
def Obligations.RunsCanGoOnForever : Prop :=
  (∀ s env, s.Inv → s.inbox = [] → (∀ n, (env n).posted = []) → InfiniteRun env (runStates env s)) ∧
  (∀ (agents : Nat → AgentStep) states, (states 0).params.admitted = true → (states 0).inbox = [] → (states 0).turns = [] →
    (∀ n i, agents n = AgentStep.operation i → i.wellFormed = true) →
    (∀ n, (agents n).outcome (states n) = .next (states (n + 1))) →
    InfiniteRun (fun n => (agents n).supply) states) ∧
  ∀ env states, InfiniteRun env states → (states 0).owSeq = .poll → (states 0).params.pollLimit = none →
    (∀ b ∈ (states 0).line, b = false) → (∀ n, (env n).answers ≠ [] ∧ ∀ b ∈ (env n).answers, b = false) →
    (∀ n u, fetch ((states n).supplied (env n)) ≠ .run .rst u) →
    ∀ n, (states n).owSeq = .poll ∧ (states n).acquisitionEnded = false ∧ (states n).owResult = (states 0).owResult

/-- R129: every step keeps the counters in bounds, the response lengths, the capacities of the index spaces and the configuration, and no
bus handler clears `error`. -/
def Obligations.StepKeepsInvariant : Prop :=
  (∀ s t, s.Inv → step s = .next t → t.Inv) ∧
  ∀ s t i, (i = .wr ∨ (∃ b, i = .rx b) ∨ i = .wc ∨ i = .rd ∨ i = .sp) → exec i s = .next t → s.error = true → t.error = true

/-- The reset state meets the invariant, for every admitted configuration. It rests on the model's reset bytes only for their number (log
5), and at `State.reset` on its parameters (log 4). -/
def Obligations.ResetMeetsInvariant : Prop :=
  (∀ p, p.admitted = true → (State.resetWith p).Inv) ∧ State.reset.Inv

/-- R51: "No rule can form an out-of-range index": from a state that meets the invariant no step faults. -/
def Obligations.StepFormsNoIndexOutOfRange : Prop :=
  ∀ s r, s.Inv → step s ≠ .fault r

/-- R22: only the bus events, the dispatcher's commands and Reset write the bus engine's state. -/
def Obligations.BusStateHasItsWriters : Prop :=
  ∀ i s t, exec i s = .next t → t.busState ≠ s.busState →
    i = .wr ∨ (∃ b, i = .rx b) ∨ i = .wc ∨ i = .rd ∨ i = .sp ∨ (∃ form, i = .setChannels form) ∨ i = .getTemp ∨
      i = .getAirTempHumidity ∨ i = .getDepth ∨ i = .unrecognized ∨ i = .rst

/-- R29, R231: `error` is cleared by ClearError and Reset alone, and wherever an operation sets it the engine is left Idle. -/
def Obligations.ErrorFlagHasItsWriters : Prop :=
  ∀ i s t, exec i s = .next t →
    (s.error = true → t.error = false → i = .clr ∨ i = .rst) ∧
    (s.error = false → t.error = true → t.busState = .idle ∧ t.mem.bank = s.mem.bank ∧ t.mem.tx = s.mem.tx)

/-- R267: after any error, QueryError returns true until ClearError or Reset, however many operations run in between. -/
def Obligations.StickyErrorSurvivesRuns : Prop :=
  ∀ ops s t, s.error = true → (∀ i ∈ ops, i ≠ Instr.clr ∧ i ≠ Instr.rst) → runOps ops s = .next t →
    exec .qerr t = .next { t with result := .flag true }

/-- R128: no operation enters WriteReadRequested, so no run from a reset state reaches it. -/
def Obligations.WriteReadRequestedUnreachable : Prop :=
  (∀ i s t, exec i s = .next t → s.busState ≠ .writeReadRequested → t.busState ≠ .writeReadRequested) ∧
  ∀ p s t, s.busState = (State.resetWith p).busState → Reaches s t → t.busState ≠ .writeReadRequested

/-- R32, R34, R60: ChannelBank is written by SETCHANNELS (in a WriteComplete or alone) and Reset only, the snapshot by PublishSnapshot and
Reset only, `enable` by SetEnable and Reset only; the parameters by no operation (R260). That no operation, RST among them, changes what the
environment has posted and scheduled is the model's choice (log 22). -/
def Obligations.SharedElementsHaveOneWriter : Prop :=
  ∀ i s t, exec i s = .next t →
    (t.mem.bank ≠ s.mem.bank → i = .wc ∨ (∃ form, i = .setChannels form) ∨ i = .rst) ∧
    (t.snapshot ≠ s.snapshot → (∃ snap, i = .pub snap) ∨ i = .rst) ∧
    (t.enable ≠ s.enable → (∃ v, i = .en v) ∨ i = .rst) ∧
    t.params = s.params ∧ t.inbox = s.inbox ∧ t.turns = s.turns

/-- R238: a bus handler, an acceptance check or a command leaves the one-wire driver at the position and counters it had. -/
def Obligations.BusHandlersLeaveTheDriver : Prop :=
  ∀ i s t, (i = .wr ∨ (∃ b, i = .rx b) ∨ i = .wc ∨ i = .rd ∨ i = .sp ∨ (∃ l, i = .accept l) ∨ (∃ form, i = .setChannels form) ∨
      i = .getTemp ∨ i = .getAirTempHumidity ∨ i = .getDepth ∨ i = .unrecognized) →
    exec i s = .next t → SameDriver s t ∧ t.mem.scratch = s.mem.scratch ∧ t.line = s.line

/-- R233: a one-wire operation never sets `error`, never changes the bus engine's state, its buffers or its response, and never changes the
snapshot or the bank. -/
def Obligations.DriverLeavesTheBus : Prop :=
  ∀ i s t, (i = .owReset ∨ (∃ b, i = .owWriteBit b) ∨ i = .owReadBit ∨ (∃ v, i = .owWriteByte v) ∨ i = .owReadByte ∨
      i = .acquireTemperature ∨ i = .skipRom ∨ i = .convertT ∨ i = .readScratchpad) →
    exec i s = .next t → SameBus s t ∧ t.snapshot = s.snapshot ∧ SameBytesBut .scratch s t

/-! ### The encoding -/

/-- Decode and encode agree (the stream form is the model's, log 1): every well-formed operation, with any bytes after it, is read back
whole. -/
def Obligations.DecodeReadsBackEncode : Prop :=
  ∀ i rest, i.wellFormed = true → decode (encode i ++ rest) = .ok (i, rest)

/-- Each stream has one reading (log 1): what the decoder answers is well formed, and its encoding is exactly the bytes it was read from. -/
def Obligations.EncodeRebuildsDecoded : Prop :=
  ∀ bs i rest, decode bs = .ok (i, rest) → i.wellFormed = true ∧ encode i ++ rest = bs

/-- R77: the table's words 0xCC, 0x44 and 0xBE are the three function codes. That a word of zeros is no operation is the model's numbering of
its kind bytes (log 1). -/
def Obligations.FunctionCodeWordsDecode : Prop :=
  decodeTableWord 8 0b11001100 = some .skipRom ∧ decodeTableWord 8 0b01000100 = some .convertT ∧
    decodeTableWord 8 0b10111110 = some .readScratchpad ∧ decodeTableWord 8 0 = none
end

