-- ==== Sys2Proof/Laws/Codec.lean ====
section
/-! SUPPORT. What the codec operations can do. -/

namespace Sys2Proof.Machine

/-- The accumulator after one more byte: a running accumulator and the codec agree (R35, R104). -/
theorem crc_concat (mode : IntegrityMode) (v : Variant) (bytes : List Byte) (b : Byte) :
    crc mode v (bytes ++ [b]) = accumulate mode v (crc mode v bytes) b := by
  simp [crc]

@[simp] theorem crc_nil (mode : IntegrityMode) (v : Variant) : crc mode v [] = crcSeed v := rfl

theorem append_of_lt {mode : IntegrityMode} {v : Variant} {buf : List Byte} {len : Nat} (h : len < buf.length) :
    append mode v buf len = some (buf.set len (crc mode v (buf.take len))) := by
  simp [append, h]

/-- What an append that answers has done: one byte set, inside the buffer. -/
theorem append_cases {mode : IntegrityMode} {v : Variant} {buf out : List Byte} {len : Nat} (h : append mode v buf len = some out) :
    len < buf.length ∧ out = buf.set len (crc mode v (buf.take len)) := by
  unfold append at h
  split at h
  · exact ⟨by assumption, (Option.some.inj h).symm⟩
  · cases h

theorem verify_of_lt {mode : IntegrityMode} {v : Variant} {buf : List Byte} {len : Nat} (h : len < buf.length) :
    verify mode v buf len = some (decide (crc mode v (buf.take len) = buf[len])) := by
  simp [verify, h]

theorem verify_eq_none {mode : IntegrityMode} {v : Variant} {buf : List Byte} {len : Nat} (h : verify mode v buf len = none) :
    buf.length ≤ len := by
  simpa [verify] using h

end Sys2Proof.Machine
end

