-- ==== Sys2Proof/Laws/Memory.lean ====
section
/-! SUPPORT. What the accesses to the index spaces can do: a write changes exactly the bytes it writes, and every write keeps the one
canonical form. -/

namespace Sys2Proof.Machine

@[simp] theorem Memory.space_setSpace_self (m : Memory) (sp : Space) (bs : List Byte) : (m.setSpace sp bs).space sp = bs := by
  cases sp <;> rfl

theorem Memory.space_setSpace_other (m : Memory) {sp sp' : Space} (bs : List Byte) (h : sp' ≠ sp) :
    (m.setSpace sp bs).space sp' = m.space sp' := by
  cases sp <;> cases sp' <;> first | rfl | exact absurd rfl h

@[simp] theorem Memory.space_rx (m : Memory) : m.space .rx = m.rx := rfl
@[simp] theorem Memory.space_tx (m : Memory) : m.space .tx = m.tx := rfl
@[simp] theorem Memory.space_bank (m : Memory) : m.space .bank = m.bank := rfl
@[simp] theorem Memory.space_scratch (m : Memory) : m.space .scratch = m.scratch := rfl

/-- The canonical form, space by space. -/
theorem Memory.wf_iff (p : Params) (m : Memory) : m.wf p = true ↔ ∀ sp, (m.space sp).length = spaceCap p sp := by
  simp only [Memory.wf, Bool.and_eq_true, decide_eq_true_eq]
  constructor
  · rintro ⟨⟨⟨h1, h2⟩, h3⟩, h4⟩ sp
    cases sp <;> assumption
  · intro h
    exact ⟨⟨⟨h .rx, h .tx⟩, h .bank⟩, h .scratch⟩

theorem Memory.wf_length {p : Params} {m : Memory} (h : m.wf p = true) (sp : Space) : (m.space sp).length = spaceCap p sp :=
  (Memory.wf_iff p m).1 h sp

/-- A write inside its space succeeds. -/
theorem Memory.write_of_le {m : Memory} {sp : Space} {start : Nat} {bs : List Byte} (h : start + bs.length ≤ (m.space sp).length) :
    m.write sp start bs = some (m.setSpace sp ((m.space sp).take start ++ bs ++ (m.space sp).drop (start + bs.length))) := by
  simp [Memory.write, h]

theorem Memory.write_exists {m : Memory} {sp : Space} {start : Nat} {bs : List Byte}
    (h : start + bs.length ≤ (m.space sp).length) : ∃ m', m.write sp start bs = some m' := ⟨_, Memory.write_of_le h⟩

/-- What a write that succeeds has done. -/
theorem Memory.write_cases {m m' : Memory} {sp : Space} {start : Nat} {bs : List Byte} (h : m.write sp start bs = some m') :
    start + bs.length ≤ (m.space sp).length ∧
      m' = m.setSpace sp ((m.space sp).take start ++ bs ++ (m.space sp).drop (start + bs.length)) := by
  unfold Memory.write at h
  split at h
  · exact ⟨by assumption, (Option.some.inj h).symm⟩
  · cases h

theorem Memory.write_space_other {m m' : Memory} {sp sp' : Space} {start : Nat} {bs : List Byte}
    (h : m.write sp start bs = some m') (hne : sp' ≠ sp) : m'.space sp' = m.space sp' := by
  obtain ⟨_, rfl⟩ := Memory.write_cases h
  exact Memory.space_setSpace_other m _ hne

theorem Memory.write_length {m m' : Memory} {sp : Space} {start : Nat} {bs : List Byte} (h : m.write sp start bs = some m')
    (sp' : Space) : (m'.space sp').length = (m.space sp').length := by
  by_cases hs : sp' = sp
  · subst hs
    obtain ⟨hle, rfl⟩ := Memory.write_cases h
    simp only [Memory.space_setSpace_self, List.length_append, List.length_take, List.length_drop]
    omega
  · rw [Memory.write_space_other h hs]

/-- Every write keeps the canonical form. -/
theorem Memory.write_keeps_wf {p : Params} {m m' : Memory} {sp : Space} {start : Nat} {bs : List Byte}
    (h : m.write sp start bs = some m') (hm : m.wf p = true) : m'.wf p = true := by
  rw [Memory.wf_iff] at hm ⊢
  intro sp'
  rw [Memory.write_length h, hm]

/-- A read after a write: the written bytes where it wrote, every other byte of the space as before. -/
theorem Memory.write_peek {m m' : Memory} {sp : Space} {start : Nat} {bs : List Byte} (h : m.write sp start bs = some m') (k : Nat) :
    m'.peek sp k = if start ≤ k ∧ k < start + bs.length then bs[k - start]? else m.peek sp k := by
  obtain ⟨hle, rfl⟩ := Memory.write_cases h
  simp only [Memory.peek, Memory.space_setSpace_self]
  have ht : ((m.space sp).take start).length = start := by rw [List.length_take]; omega
  rcases Nat.lt_or_ge k start with hk | hk
  · have : ¬(start ≤ k ∧ k < start + bs.length) := by omega
    rw [if_neg this, List.append_assoc, List.getElem?_append_left (by omega), List.getElem?_take, if_pos hk]
  · rw [List.append_assoc, List.getElem?_append_right (by omega), ht]
    rcases Nat.lt_or_ge k (start + bs.length) with hk2 | hk2
    · rw [if_pos ⟨hk, hk2⟩, List.getElem?_append_left (by omega)]
    · have : ¬(start ≤ k ∧ k < start + bs.length) := by omega
      rw [if_neg this, List.getElem?_append_right (by omega), List.getElem?_drop]
      congr 1
      omega

theorem Memory.write_peek_other {m m' : Memory} {sp sp' : Space} {start : Nat} {bs : List Byte}
    (h : m.write sp start bs = some m') (hne : sp' ≠ sp) (k : Nat) : m'.peek sp' k = m.peek sp' k := by
  simp only [Memory.peek, Memory.write_space_other h hne]

/-- A read inside its space succeeds. -/
theorem Memory.read_of_le {m : Memory} {sp : Space} {start len : Nat} (h : start + len ≤ (m.space sp).length) :
    m.read sp start len = some (((m.space sp).drop start).take len) := by
  simp [Memory.read, h]

/-- A byte below the capacity can be read. -/
theorem Memory.peek_of_wf {p : Params} {m : Memory} (h : m.wf p = true) {sp : Space} {k : Nat} (hk : k < spaceCap p sp) :
    ∃ b, m.peek sp k = some b := by
  have hl := Memory.wf_length h sp
  exact ⟨(m.space sp)[k]'(by omega), List.getElem?_eq_getElem _⟩

theorem freeBytes_length (start n : Nat) : (freeBytes start n).length = n := by simp [freeBytes]

/-- The reset memory is in canonical form, for every configuration. -/
theorem resetWith_memory_wf (p : Params) : (State.resetWith p).mem.wf p = true := by
  simp [State.resetWith, Memory.wf]

end Sys2Proof.Machine
end

