-- ==== Sys2Proof/Laws/State.lean ====
section
/-! SUPPORT. One lemma per field per update of the state, each true by definition, so that no later proof unfolds a record update. -/

namespace Sys2Proof.Machine

@[simp] theorem State.answer_params (s : State) (a : Answer) : (s.answer a).params = s.params := rfl
@[simp] theorem State.answer_busState (s : State) (a : Answer) : (s.answer a).busState = s.busState := rfl
@[simp] theorem State.answer_mem (s : State) (a : Answer) : (s.answer a).mem = s.mem := rfl
@[simp] theorem State.answer_rxCount (s : State) (a : Answer) : (s.answer a).rxCount = s.rxCount := rfl
@[simp] theorem State.answer_txLength (s : State) (a : Answer) : (s.answer a).txLength = s.txLength := rfl
@[simp] theorem State.answer_txCount (s : State) (a : Answer) : (s.answer a).txCount = s.txCount := rfl
@[simp] theorem State.answer_enable (s : State) (a : Answer) : (s.answer a).enable = s.enable := rfl
@[simp] theorem State.answer_error (s : State) (a : Answer) : (s.answer a).error = s.error := rfl
@[simp] theorem State.answer_snapshot (s : State) (a : Answer) : (s.answer a).snapshot = s.snapshot := rfl
@[simp] theorem State.answer_owSeq (s : State) (a : Answer) : (s.answer a).owSeq = s.owSeq := rfl
@[simp] theorem State.answer_bitIndex (s : State) (a : Answer) : (s.answer a).bitIndex = s.bitIndex := rfl
@[simp] theorem State.answer_byteIndex (s : State) (a : Answer) : (s.answer a).byteIndex = s.byteIndex := rfl
@[simp] theorem State.answer_pollCount (s : State) (a : Answer) : (s.answer a).pollCount = s.pollCount := rfl
@[simp] theorem State.answer_owResult (s : State) (a : Answer) : (s.answer a).owResult = s.owResult := rfl
@[simp] theorem State.answer_owDrive (s : State) (a : Answer) : (s.answer a).owDrive = s.owDrive := rfl
@[simp] theorem State.answer_owByte (s : State) (a : Answer) : (s.answer a).owByte = s.owByte := rfl
@[simp] theorem State.answer_owOk (s : State) (a : Answer) : (s.answer a).owOk = s.owOk := rfl
@[simp] theorem State.answer_owCall (s : State) (a : Answer) : (s.answer a).owCall = s.owCall := rfl
@[simp] theorem State.answer_result (s : State) (a : Answer) : (s.answer a).result = a := rfl
@[simp] theorem State.answer_inbox (s : State) (a : Answer) : (s.answer a).inbox = s.inbox := rfl
@[simp] theorem State.answer_turns (s : State) (a : Answer) : (s.answer a).turns = s.turns := rfl
@[simp] theorem State.answer_line (s : State) (a : Answer) : (s.answer a).line = s.line := rfl
@[simp] theorem State.answer_draws (s : State) (a : Answer) : (s.answer a).draws = s.draws := rfl

@[simp] theorem State.setError_params (s : State) : (s.setError).params = s.params := rfl
@[simp] theorem State.setError_busState (s : State) : (s.setError).busState = s.busState := rfl
@[simp] theorem State.setError_mem (s : State) : (s.setError).mem = s.mem := rfl
@[simp] theorem State.setError_rxCount (s : State) : (s.setError).rxCount = s.rxCount := rfl
@[simp] theorem State.setError_txLength (s : State) : (s.setError).txLength = s.txLength := rfl
@[simp] theorem State.setError_txCount (s : State) : (s.setError).txCount = s.txCount := rfl
@[simp] theorem State.setError_enable (s : State) : (s.setError).enable = s.enable := rfl
@[simp] theorem State.setError_error (s : State) : (s.setError).error = true := rfl
@[simp] theorem State.setError_snapshot (s : State) : (s.setError).snapshot = s.snapshot := rfl
@[simp] theorem State.setError_owSeq (s : State) : (s.setError).owSeq = s.owSeq := rfl
@[simp] theorem State.setError_bitIndex (s : State) : (s.setError).bitIndex = s.bitIndex := rfl
@[simp] theorem State.setError_byteIndex (s : State) : (s.setError).byteIndex = s.byteIndex := rfl
@[simp] theorem State.setError_pollCount (s : State) : (s.setError).pollCount = s.pollCount := rfl
@[simp] theorem State.setError_owResult (s : State) : (s.setError).owResult = s.owResult := rfl
@[simp] theorem State.setError_owDrive (s : State) : (s.setError).owDrive = s.owDrive := rfl
@[simp] theorem State.setError_owByte (s : State) : (s.setError).owByte = s.owByte := rfl
@[simp] theorem State.setError_owOk (s : State) : (s.setError).owOk = s.owOk := rfl
@[simp] theorem State.setError_owCall (s : State) : (s.setError).owCall = s.owCall := rfl
@[simp] theorem State.setError_result (s : State) : (s.setError).result = s.result := rfl
@[simp] theorem State.setError_inbox (s : State) : (s.setError).inbox = s.inbox := rfl
@[simp] theorem State.setError_turns (s : State) : (s.setError).turns = s.turns := rfl
@[simp] theorem State.setError_line (s : State) : (s.setError).line = s.line := rfl
@[simp] theorem State.setError_draws (s : State) : (s.setError).draws = s.draws := rfl

@[simp] theorem State.clearError_params (s : State) : (s.clearError).params = s.params := rfl
@[simp] theorem State.clearError_busState (s : State) : (s.clearError).busState = s.busState := rfl
@[simp] theorem State.clearError_mem (s : State) : (s.clearError).mem = s.mem := rfl
@[simp] theorem State.clearError_rxCount (s : State) : (s.clearError).rxCount = s.rxCount := rfl
@[simp] theorem State.clearError_txLength (s : State) : (s.clearError).txLength = s.txLength := rfl
@[simp] theorem State.clearError_txCount (s : State) : (s.clearError).txCount = s.txCount := rfl
@[simp] theorem State.clearError_enable (s : State) : (s.clearError).enable = s.enable := rfl
@[simp] theorem State.clearError_error (s : State) : (s.clearError).error = false := rfl
@[simp] theorem State.clearError_snapshot (s : State) : (s.clearError).snapshot = s.snapshot := rfl
@[simp] theorem State.clearError_owSeq (s : State) : (s.clearError).owSeq = s.owSeq := rfl
@[simp] theorem State.clearError_bitIndex (s : State) : (s.clearError).bitIndex = s.bitIndex := rfl
@[simp] theorem State.clearError_byteIndex (s : State) : (s.clearError).byteIndex = s.byteIndex := rfl
@[simp] theorem State.clearError_pollCount (s : State) : (s.clearError).pollCount = s.pollCount := rfl
@[simp] theorem State.clearError_owResult (s : State) : (s.clearError).owResult = s.owResult := rfl
@[simp] theorem State.clearError_owDrive (s : State) : (s.clearError).owDrive = s.owDrive := rfl
@[simp] theorem State.clearError_owByte (s : State) : (s.clearError).owByte = s.owByte := rfl
@[simp] theorem State.clearError_owOk (s : State) : (s.clearError).owOk = s.owOk := rfl
@[simp] theorem State.clearError_owCall (s : State) : (s.clearError).owCall = s.owCall := rfl
@[simp] theorem State.clearError_result (s : State) : (s.clearError).result = s.result := rfl
@[simp] theorem State.clearError_inbox (s : State) : (s.clearError).inbox = s.inbox := rfl
@[simp] theorem State.clearError_turns (s : State) : (s.clearError).turns = s.turns := rfl
@[simp] theorem State.clearError_line (s : State) : (s.clearError).line = s.line := rfl
@[simp] theorem State.clearError_draws (s : State) : (s.clearError).draws = s.draws := rfl

@[simp] theorem State.setEnable_params (s : State) (v : Bool) : (s.setEnable v).params = s.params := rfl
@[simp] theorem State.setEnable_busState (s : State) (v : Bool) : (s.setEnable v).busState = s.busState := rfl
@[simp] theorem State.setEnable_mem (s : State) (v : Bool) : (s.setEnable v).mem = s.mem := rfl
@[simp] theorem State.setEnable_rxCount (s : State) (v : Bool) : (s.setEnable v).rxCount = s.rxCount := rfl
@[simp] theorem State.setEnable_txLength (s : State) (v : Bool) : (s.setEnable v).txLength = s.txLength := rfl
@[simp] theorem State.setEnable_txCount (s : State) (v : Bool) : (s.setEnable v).txCount = s.txCount := rfl
@[simp] theorem State.setEnable_enable (s : State) (v : Bool) : (s.setEnable v).enable = v := rfl
@[simp] theorem State.setEnable_error (s : State) (v : Bool) : (s.setEnable v).error = s.error := rfl
@[simp] theorem State.setEnable_snapshot (s : State) (v : Bool) : (s.setEnable v).snapshot = s.snapshot := rfl
@[simp] theorem State.setEnable_owSeq (s : State) (v : Bool) : (s.setEnable v).owSeq = s.owSeq := rfl
@[simp] theorem State.setEnable_bitIndex (s : State) (v : Bool) : (s.setEnable v).bitIndex = s.bitIndex := rfl
@[simp] theorem State.setEnable_byteIndex (s : State) (v : Bool) : (s.setEnable v).byteIndex = s.byteIndex := rfl
@[simp] theorem State.setEnable_pollCount (s : State) (v : Bool) : (s.setEnable v).pollCount = s.pollCount := rfl
@[simp] theorem State.setEnable_owResult (s : State) (v : Bool) : (s.setEnable v).owResult = s.owResult := rfl
@[simp] theorem State.setEnable_owDrive (s : State) (v : Bool) : (s.setEnable v).owDrive = s.owDrive := rfl
@[simp] theorem State.setEnable_owByte (s : State) (v : Bool) : (s.setEnable v).owByte = s.owByte := rfl
@[simp] theorem State.setEnable_owOk (s : State) (v : Bool) : (s.setEnable v).owOk = s.owOk := rfl
@[simp] theorem State.setEnable_owCall (s : State) (v : Bool) : (s.setEnable v).owCall = s.owCall := rfl
@[simp] theorem State.setEnable_result (s : State) (v : Bool) : (s.setEnable v).result = s.result := rfl
@[simp] theorem State.setEnable_inbox (s : State) (v : Bool) : (s.setEnable v).inbox = s.inbox := rfl
@[simp] theorem State.setEnable_turns (s : State) (v : Bool) : (s.setEnable v).turns = s.turns := rfl
@[simp] theorem State.setEnable_line (s : State) (v : Bool) : (s.setEnable v).line = s.line := rfl
@[simp] theorem State.setEnable_draws (s : State) (v : Bool) : (s.setEnable v).draws = s.draws := rfl

@[simp] theorem State.fail_params (s : State) (k : ErrorKind) : (s.fail k).params = s.params := rfl
@[simp] theorem State.fail_busState (s : State) (k : ErrorKind) : (s.fail k).busState = .idle := rfl
@[simp] theorem State.fail_mem (s : State) (k : ErrorKind) : (s.fail k).mem = s.mem := rfl
@[simp] theorem State.fail_rxCount (s : State) (k : ErrorKind) : (s.fail k).rxCount = s.rxCount := rfl
@[simp] theorem State.fail_txLength (s : State) (k : ErrorKind) : (s.fail k).txLength = s.txLength := rfl
@[simp] theorem State.fail_txCount (s : State) (k : ErrorKind) : (s.fail k).txCount = s.txCount := rfl
@[simp] theorem State.fail_enable (s : State) (k : ErrorKind) : (s.fail k).enable = s.enable := rfl
@[simp] theorem State.fail_error (s : State) (k : ErrorKind) : (s.fail k).error = true := rfl
@[simp] theorem State.fail_snapshot (s : State) (k : ErrorKind) : (s.fail k).snapshot = s.snapshot := rfl
@[simp] theorem State.fail_owSeq (s : State) (k : ErrorKind) : (s.fail k).owSeq = s.owSeq := rfl
@[simp] theorem State.fail_bitIndex (s : State) (k : ErrorKind) : (s.fail k).bitIndex = s.bitIndex := rfl
@[simp] theorem State.fail_byteIndex (s : State) (k : ErrorKind) : (s.fail k).byteIndex = s.byteIndex := rfl
@[simp] theorem State.fail_pollCount (s : State) (k : ErrorKind) : (s.fail k).pollCount = s.pollCount := rfl
@[simp] theorem State.fail_owResult (s : State) (k : ErrorKind) : (s.fail k).owResult = s.owResult := rfl
@[simp] theorem State.fail_owDrive (s : State) (k : ErrorKind) : (s.fail k).owDrive = s.owDrive := rfl
@[simp] theorem State.fail_owByte (s : State) (k : ErrorKind) : (s.fail k).owByte = s.owByte := rfl
@[simp] theorem State.fail_owOk (s : State) (k : ErrorKind) : (s.fail k).owOk = s.owOk := rfl
@[simp] theorem State.fail_owCall (s : State) (k : ErrorKind) : (s.fail k).owCall = s.owCall := rfl
@[simp] theorem State.fail_result (s : State) (k : ErrorKind) : (s.fail k).result = s.result := rfl
@[simp] theorem State.fail_inbox (s : State) (k : ErrorKind) : (s.fail k).inbox = s.inbox := rfl
@[simp] theorem State.fail_turns (s : State) (k : ErrorKind) : (s.fail k).turns = s.turns := rfl
@[simp] theorem State.fail_line (s : State) (k : ErrorKind) : (s.fail k).line = s.line := rfl
@[simp] theorem State.fail_draws (s : State) (k : ErrorKind) : (s.fail k).draws = s.draws := rfl

@[simp] theorem State.countDraw_params (s : State) : (s.countDraw).params = s.params := rfl
@[simp] theorem State.countDraw_busState (s : State) : (s.countDraw).busState = s.busState := rfl
@[simp] theorem State.countDraw_mem (s : State) : (s.countDraw).mem = s.mem := rfl
@[simp] theorem State.countDraw_rxCount (s : State) : (s.countDraw).rxCount = s.rxCount := rfl
@[simp] theorem State.countDraw_txLength (s : State) : (s.countDraw).txLength = s.txLength := rfl
@[simp] theorem State.countDraw_txCount (s : State) : (s.countDraw).txCount = s.txCount := rfl
@[simp] theorem State.countDraw_enable (s : State) : (s.countDraw).enable = s.enable := rfl
@[simp] theorem State.countDraw_error (s : State) : (s.countDraw).error = s.error := rfl
@[simp] theorem State.countDraw_snapshot (s : State) : (s.countDraw).snapshot = s.snapshot := rfl
@[simp] theorem State.countDraw_owSeq (s : State) : (s.countDraw).owSeq = s.owSeq := rfl
@[simp] theorem State.countDraw_bitIndex (s : State) : (s.countDraw).bitIndex = s.bitIndex := rfl
@[simp] theorem State.countDraw_byteIndex (s : State) : (s.countDraw).byteIndex = s.byteIndex := rfl
@[simp] theorem State.countDraw_pollCount (s : State) : (s.countDraw).pollCount = s.pollCount := rfl
@[simp] theorem State.countDraw_owResult (s : State) : (s.countDraw).owResult = s.owResult := rfl
@[simp] theorem State.countDraw_owDrive (s : State) : (s.countDraw).owDrive = s.owDrive := rfl
@[simp] theorem State.countDraw_owByte (s : State) : (s.countDraw).owByte = s.owByte := rfl
@[simp] theorem State.countDraw_owOk (s : State) : (s.countDraw).owOk = s.owOk := rfl
@[simp] theorem State.countDraw_owCall (s : State) : (s.countDraw).owCall = s.owCall := rfl
@[simp] theorem State.countDraw_result (s : State) : (s.countDraw).result = s.result := rfl
@[simp] theorem State.countDraw_inbox (s : State) : (s.countDraw).inbox = s.inbox := rfl
@[simp] theorem State.countDraw_turns (s : State) : (s.countDraw).turns = s.turns := rfl
@[simp] theorem State.countDraw_line (s : State) : (s.countDraw).line = s.line := rfl
@[simp] theorem State.countDraw_draws (s : State) : (s.countDraw).draws = s.draws + 1 := rfl

@[simp] theorem State.enter_params (s : State) (q : OwSeq) : (s.enter q).params = s.params := rfl
@[simp] theorem State.enter_busState (s : State) (q : OwSeq) : (s.enter q).busState = s.busState := rfl
@[simp] theorem State.enter_mem (s : State) (q : OwSeq) : (s.enter q).mem = s.mem := rfl
@[simp] theorem State.enter_rxCount (s : State) (q : OwSeq) : (s.enter q).rxCount = s.rxCount := rfl
@[simp] theorem State.enter_txLength (s : State) (q : OwSeq) : (s.enter q).txLength = s.txLength := rfl
@[simp] theorem State.enter_txCount (s : State) (q : OwSeq) : (s.enter q).txCount = s.txCount := rfl
@[simp] theorem State.enter_enable (s : State) (q : OwSeq) : (s.enter q).enable = s.enable := rfl
@[simp] theorem State.enter_error (s : State) (q : OwSeq) : (s.enter q).error = s.error := rfl
@[simp] theorem State.enter_snapshot (s : State) (q : OwSeq) : (s.enter q).snapshot = s.snapshot := rfl
@[simp] theorem State.enter_owSeq (s : State) (q : OwSeq) : (s.enter q).owSeq = q := rfl
@[simp] theorem State.enter_bitIndex (s : State) (q : OwSeq) : (s.enter q).bitIndex = s.bitIndex := rfl
@[simp] theorem State.enter_byteIndex (s : State) (q : OwSeq) : (s.enter q).byteIndex = s.byteIndex := rfl
@[simp] theorem State.enter_pollCount (s : State) (q : OwSeq) : (s.enter q).pollCount = s.pollCount := rfl
@[simp] theorem State.enter_owResult (s : State) (q : OwSeq) : (s.enter q).owResult = s.owResult := rfl
@[simp] theorem State.enter_owDrive (s : State) (q : OwSeq) : (s.enter q).owDrive = s.owDrive := rfl
@[simp] theorem State.enter_owByte (s : State) (q : OwSeq) : (s.enter q).owByte = s.owByte := rfl
@[simp] theorem State.enter_owOk (s : State) (q : OwSeq) : (s.enter q).owOk = s.owOk := rfl
@[simp] theorem State.enter_owCall (s : State) (q : OwSeq) : (s.enter q).owCall = s.owCall := rfl
@[simp] theorem State.enter_result (s : State) (q : OwSeq) : (s.enter q).result = s.result := rfl
@[simp] theorem State.enter_inbox (s : State) (q : OwSeq) : (s.enter q).inbox = s.inbox := rfl
@[simp] theorem State.enter_turns (s : State) (q : OwSeq) : (s.enter q).turns = s.turns := rfl
@[simp] theorem State.enter_line (s : State) (q : OwSeq) : (s.enter q).line = s.line := rfl
@[simp] theorem State.enter_draws (s : State) (q : OwSeq) : (s.enter q).draws = s.draws := rfl

@[simp] theorem State.startByteCall_params (s : State) (c : ByteCall) : (s.startByteCall c).params = s.params := rfl
@[simp] theorem State.startByteCall_busState (s : State) (c : ByteCall) : (s.startByteCall c).busState = s.busState := rfl
@[simp] theorem State.startByteCall_mem (s : State) (c : ByteCall) : (s.startByteCall c).mem = s.mem := rfl
@[simp] theorem State.startByteCall_rxCount (s : State) (c : ByteCall) : (s.startByteCall c).rxCount = s.rxCount := rfl
@[simp] theorem State.startByteCall_txLength (s : State) (c : ByteCall) : (s.startByteCall c).txLength = s.txLength := rfl
@[simp] theorem State.startByteCall_txCount (s : State) (c : ByteCall) : (s.startByteCall c).txCount = s.txCount := rfl
@[simp] theorem State.startByteCall_enable (s : State) (c : ByteCall) : (s.startByteCall c).enable = s.enable := rfl
@[simp] theorem State.startByteCall_error (s : State) (c : ByteCall) : (s.startByteCall c).error = s.error := rfl
@[simp] theorem State.startByteCall_snapshot (s : State) (c : ByteCall) : (s.startByteCall c).snapshot = s.snapshot := rfl
@[simp] theorem State.startByteCall_owSeq (s : State) (c : ByteCall) : (s.startByteCall c).owSeq = s.owSeq := rfl
@[simp] theorem State.startByteCall_bitIndex (s : State) (c : ByteCall) : (s.startByteCall c).bitIndex = 0 := rfl
@[simp] theorem State.startByteCall_byteIndex (s : State) (c : ByteCall) : (s.startByteCall c).byteIndex = s.byteIndex := rfl
@[simp] theorem State.startByteCall_pollCount (s : State) (c : ByteCall) : (s.startByteCall c).pollCount = s.pollCount := rfl
@[simp] theorem State.startByteCall_owResult (s : State) (c : ByteCall) : (s.startByteCall c).owResult = s.owResult := rfl
@[simp] theorem State.startByteCall_owDrive (s : State) (c : ByteCall) : (s.startByteCall c).owDrive = s.owDrive := rfl
@[simp] theorem State.startByteCall_owByte (s : State) (c : ByteCall) : (s.startByteCall c).owByte = s.owByte := rfl
@[simp] theorem State.startByteCall_owOk (s : State) (c : ByteCall) : (s.startByteCall c).owOk = s.owOk := rfl
@[simp] theorem State.startByteCall_owCall (s : State) (c : ByteCall) : (s.startByteCall c).owCall = some c := rfl
@[simp] theorem State.startByteCall_result (s : State) (c : ByteCall) : (s.startByteCall c).result = s.result := rfl
@[simp] theorem State.startByteCall_inbox (s : State) (c : ByteCall) : (s.startByteCall c).inbox = s.inbox := rfl
@[simp] theorem State.startByteCall_turns (s : State) (c : ByteCall) : (s.startByteCall c).turns = s.turns := rfl
@[simp] theorem State.startByteCall_line (s : State) (c : ByteCall) : (s.startByteCall c).line = s.line := rfl
@[simp] theorem State.startByteCall_draws (s : State) (c : ByteCall) : (s.startByteCall c).draws = s.draws := rfl

@[simp] theorem State.startAcquisition_params (s : State) : (s.startAcquisition).params = s.params := rfl
@[simp] theorem State.startAcquisition_busState (s : State) : (s.startAcquisition).busState = s.busState := rfl
@[simp] theorem State.startAcquisition_mem (s : State) : (s.startAcquisition).mem = s.mem := rfl
@[simp] theorem State.startAcquisition_rxCount (s : State) : (s.startAcquisition).rxCount = s.rxCount := rfl
@[simp] theorem State.startAcquisition_txLength (s : State) : (s.startAcquisition).txLength = s.txLength := rfl
@[simp] theorem State.startAcquisition_txCount (s : State) : (s.startAcquisition).txCount = s.txCount := rfl
@[simp] theorem State.startAcquisition_enable (s : State) : (s.startAcquisition).enable = s.enable := rfl
@[simp] theorem State.startAcquisition_error (s : State) : (s.startAcquisition).error = s.error := rfl
@[simp] theorem State.startAcquisition_snapshot (s : State) : (s.startAcquisition).snapshot = s.snapshot := rfl
@[simp] theorem State.startAcquisition_owSeq (s : State) : (s.startAcquisition).owSeq = .reset1 := rfl
@[simp] theorem State.startAcquisition_bitIndex (s : State) : (s.startAcquisition).bitIndex = s.bitIndex := rfl
@[simp] theorem State.startAcquisition_byteIndex (s : State) : (s.startAcquisition).byteIndex = s.byteIndex := rfl
@[simp] theorem State.startAcquisition_pollCount (s : State) : (s.startAcquisition).pollCount = s.pollCount := rfl
@[simp] theorem State.startAcquisition_owResult (s : State) : (s.startAcquisition).owResult = .none := rfl
@[simp] theorem State.startAcquisition_owDrive (s : State) : (s.startAcquisition).owDrive = s.owDrive := rfl
@[simp] theorem State.startAcquisition_owByte (s : State) : (s.startAcquisition).owByte = s.owByte := rfl
@[simp] theorem State.startAcquisition_owOk (s : State) : (s.startAcquisition).owOk = s.owOk := rfl
@[simp] theorem State.startAcquisition_owCall (s : State) : (s.startAcquisition).owCall = none := rfl
@[simp] theorem State.startAcquisition_result (s : State) : (s.startAcquisition).result = s.result := rfl
@[simp] theorem State.startAcquisition_inbox (s : State) : (s.startAcquisition).inbox = s.inbox := rfl
@[simp] theorem State.startAcquisition_turns (s : State) : (s.startAcquisition).turns = s.turns := rfl
@[simp] theorem State.startAcquisition_line (s : State) : (s.startAcquisition).line = s.line := rfl
@[simp] theorem State.startAcquisition_draws (s : State) : (s.startAcquisition).draws = s.draws := rfl

end Sys2Proof.Machine
end

