-- ==== Sys2Proof/Laws/Ops.lean ====
section
/-! SUPPORT. For each shared operation, what it can do, said once. -/

namespace Sys2Proof.Machine

/-- R121's condition, as a proposition. -/
theorem State.startsMessage_iff (s : State) :
    s.startsMessage = true ↔ s.enable = true ∧ (s.busState = .idle ∨ s.busState = .writeReadRequested) := by
  unfold State.startsMessage
  cases s.enable <;> cases s.busState <;> simp

/-- R217's condition, as a proposition. -/
theorem State.acquiring_eq_false (s : State) : s.acquiring = false ↔ s.owSeq = .idle ∨ s.owSeq = .done := by
  unfold State.acquiring
  cases s.owSeq <;> simp

/-- A driver that is not busy has no slot due. -/
theorem State.nextSlot_of_not_busy {s : State} (h : s.driverBusy = false) : s.nextSlot = none := by
  simp only [State.driverBusy, Bool.or_eq_false_iff, Option.isSome_eq_false_iff, Option.isNone_iff_eq_none] at h
  obtain ⟨ha, hc⟩ := h
  rcases s.acquiring_eq_false.1 ha with hs | hs <;> simp [State.nextSlot, State.byteSlot, State.byteCall, hs, hc]

theorem finish_eq_next {o : Option State} {t : State} : finish o = .next t ↔ o = some t := by
  cases o <;> simp [finish]

theorem finish_ne_refused {o : Option State} {r : Refusal} : finish o ≠ .refused r := by
  cases o <;> simp [finish]

theorem finish_eq_fault {o : Option State} {r : Fault} : finish o = .fault r ↔ o = none := by
  cases o <;> cases r <;> simp [finish]

/-- What a GET_* response has done (R152 to R154). -/
theorem State.respond_cases {s t : State} {payload : List Byte} (h : s.respond payload = some t) :
    ∃ m, s.mem.write .tx 0 (payload ++ [crc s.params.integrityMode .pec payload]) = some m ∧
      t = { s with mem := m, txLength := payload.length + 1, txCount := 0, busState := .readRequested } := by
  simp only [State.respond, Option.bind_eq_some_iff, Option.map_eq_some_iff] at h
  obtain ⟨m, hm, tx, htx, rfl⟩ := h
  obtain ⟨hle, rfl⟩ := Memory.write_cases hm
  obtain ⟨hlt, rfl⟩ := append_cases htx
  simp only [Nat.zero_add, List.take_zero, List.nil_append, Memory.setSpace, Memory.space_tx] at hle hlt ⊢
  have hlen : payload.length + 1 ≤ s.mem.tx.length := by
    simp only [List.length_append, List.length_drop] at hlt
    omega
  refine ⟨_, Memory.write_of_le (by simpa using hlen), ?_⟩
  simp only [Memory.setSpace, Memory.space_tx, List.take_zero, List.nil_append, Nat.zero_add, List.length_append, List.length_singleton]
  rw [List.take_left, List.set_append_right _ _ (Nat.le_refl _), Nat.sub_self]
  have : s.mem.tx.drop payload.length = s.mem.tx[payload.length]'(by omega) :: s.mem.tx.drop (payload.length + 1) :=
    List.drop_eq_getElem_cons (by omega)
  rw [this, List.set_cons_zero, List.append_assoc, List.singleton_append]

/-- A response whose payload and PEC fit goes through. -/
theorem State.respond_of_le {s : State} {payload : List Byte} (h : payload.length + 1 ≤ s.mem.tx.length) :
    ∃ t, s.respond payload = some t := by
  simp only [State.respond]
  rw [Memory.write_of_le (by simp only [Memory.space_tx]; omega)]
  simp only [Option.bind_some, Memory.setSpace, List.take_zero, List.nil_append, Nat.zero_add, Memory.space_tx]
  rw [append_of_lt (by simp only [List.length_append, List.length_drop]; omega)]
  exact ⟨_, rfl⟩

theorem State.applyChannels_short (s : State) : s.applyChannels .short = some (s.fail .integrity) := rfl

/-- The long form on its own number of bytes: the check and the bank (R151). -/
theorem State.applyChannels_long {s : State} (h : s.rxCount = s.params.channels + 2) :
    s.applyChannels .long = (verify s.params.integrityMode .pec s.mem.rx (1 + s.params.channels)).bind fun ok =>
      if ok then
        (s.mem.read .rx 1 s.params.channels).bind fun bytes =>
          (s.mem.write .bank 0 bytes).map fun m => { s with mem := m, busState := .idle }
      else some (s.fail .integrity) :=
  if_pos (by rw [h, expectedLength]; omega)

/-- The long form on any other number of bytes reads none of them (R51, log 21). -/
theorem State.applyChannels_length {s : State} (h : s.rxCount ≠ s.params.channels + 2) :
    s.applyChannels .long = some (s.fail .protocolLength) :=
  if_neg (by rw [expectedLength]; omega)

/-- What SETCHANNELS can do (R151): the failure procedure, or the whole bank in one step. -/
theorem State.applyChannels_cases {s t : State} {form : Form} (h : s.applyChannels form = some t) :
    (∃ k, t = s.fail k) ∨
      (form = .long ∧ s.rxCount = s.params.channels + 2 ∧ verify s.params.integrityMode .pec s.mem.rx (1 + s.params.channels) = some true ∧
        ∃ bytes m, s.mem.read .rx 1 s.params.channels = some bytes ∧ s.mem.write .bank 0 bytes = some m ∧
          t = { s with mem := m, busState := .idle }) := by
  cases form with
  | short => exact .inl ⟨.integrity, (Option.some.inj h).symm⟩
  | long =>
    by_cases hc : s.rxCount = s.params.channels + 2
    · rw [State.applyChannels_long hc, Option.bind_eq_some_iff] at h
      obtain ⟨ok, hv, h⟩ := h
      cases ok with
      | false => exact .inl ⟨.integrity, by simpa using h.symm⟩
      | true =>
        simp only [if_true, Option.bind_eq_some_iff, Option.map_eq_some_iff] at h
        obtain ⟨bytes, hb, m, hm, rfl⟩ := h
        exact .inr ⟨rfl, hc, hv, bytes, m, hb, hm, rfl⟩
    · rw [State.applyChannels_length hc] at h
      exact .inl ⟨.protocolLength, (Option.some.inj h).symm⟩

/-- What a complete message leads to (R123): the failure procedure, or an accepted command's own effect. -/
theorem State.completeMessage_cases {s t : State} (h : s.completeMessage = some t) :
    (∃ k, t = s.fail k) ∨ ∃ op c form, s.mem.peek .rx 0 = some op ∧ commandOf s.params op = some c ∧ s.dispatch c form = some t := by
  unfold State.completeMessage at h
  split at h
  · exact .inl ⟨_, (Option.some.inj h).symm⟩
  · simp only [Option.bind_eq_some_iff] at h
    obtain ⟨op, hop, h⟩ := h
    split at h
    · exact .inl ⟨_, (Option.some.inj h).symm⟩
    · rename_i c hc
      simp only [Option.bind_eq_some_iff] at h
      obtain ⟨v, _, h⟩ := h
      cases v with
      | acceptedShort => exact .inr ⟨op, c, .short, hop, hc, h⟩
      | acceptedLong => exact .inr ⟨op, c, .long, hop, hc, h⟩
      | rejected k => exact .inl ⟨k, (Option.some.inj h).symm⟩

theorem State.countSample_line (s : State) : s.countSample.line = s.line.tail := by
  unfold State.countSample
  split <;> simp_all [State.countDraw]

/-- Sampling touches the environment's fields only. -/
theorem State.countSample_cases (s : State) :
    s.countSample = { s with line := s.line.tail, draws := s.draws + (if s.line = [] then 1 else 0) } := by
  unfold State.countSample
  split <;> rename_i h <;> simp [h, State.countDraw]

/-- What a slot does to the line: released at its end, and the sample is the sensor's answer (R172 to R174). -/
theorem State.runSlot_eq (s : State) (slot : Slot) :
    s.runSlot slot = match slot with
      | .write _ => ({ s with owDrive := .released }, true)
      | .reset => ({ s.countSample with owDrive := .released }, s.sensorAnswer)
      | .read => ({ s.countSample with owDrive := .released }, s.sensorAnswer) := by
  have hc : ({ s with owDrive := .released } : State).countSample = { s.countSample with owDrive := .released } := by
    simp [State.countSample_cases]
  have ha : ({ s with owDrive := .released } : State).sensorAnswer = s.sensorAnswer := rfl
  cases slot with
  | reset => simp [State.runSlot, slotActs, lineStep, lineLevel, hc, ha]
  | write b => cases b <;> simp [State.runSlot, slotActs, lineStep]
  | read => simp [State.runSlot, slotActs, lineStep, lineLevel, hc, ha]

end Sys2Proof.Machine
end

