-- ==== Sys2Proof/Laws/Bus.lean ====
section
/-! SUPPORT. What the bus-event handlers' own operations can do. -/

namespace Sys2Proof.Machine

theorem State.receive_ignored {s : State} {b : Byte} (h : s.busState ≠ .writeRequested) : s.receive b = some s := by
  unfold State.receive
  exact if_pos h

theorem State.receive_overflow {s : State} {b : Byte} (h : s.busState = .writeRequested) (hc : s.params.rxCap ≤ s.rxCount) :
    s.receive b = some (s.fail .bufferOverflow) := by
  unfold State.receive
  rw [if_neg (not_not.2 h), if_neg (Nat.not_lt.2 hc)]

theorem State.receive_stored {s : State} {b : Byte} (h : s.busState = .writeRequested) (hc : s.rxCount < s.params.rxCap) :
    s.receive b = (s.mem.write .rx s.rxCount [b]).map fun m => { s with mem := m, rxCount := s.rxCount + 1 } := by
  unfold State.receive
  rw [if_neg (not_not.2 h), if_pos hc]

/-- Everything a ByteReceived that answers can have done (R122). -/
theorem State.receive_cases {s t : State} {b : Byte} (h : s.receive b = some t) :
    t = s ∨ t = s.fail .bufferOverflow ∨
      (s.rxCount < s.params.rxCap ∧ ∃ m, s.mem.write .rx s.rxCount [b] = some m ∧ t = { s with mem := m, rxCount := s.rxCount + 1 }) := by
  by_cases hb : s.busState = .writeRequested
  · rcases Nat.lt_or_ge s.rxCount s.params.rxCap with hc | hc
    · rw [State.receive_stored hb hc, Option.map_eq_some_iff] at h
      obtain ⟨m, hm, rfl⟩ := h
      exact .inr (.inr ⟨hc, m, hm, rfl⟩)
    · rw [State.receive_overflow hb hc] at h
      exact .inr (.inl (Option.some.inj h).symm)
  · rw [State.receive_ignored hb] at h
    exact .inl (Option.some.inj h).symm

theorem State.emitByte_next {s : State} (h : s.busState = .readRequested) (hc : s.txCount < s.txLength) :
    s.emitByte = (s.mem.peek .tx s.txCount).map fun b => { s.answer (.byte b) with txCount := s.txCount + 1 } := by
  unfold State.emitByte
  rw [if_pos h, if_pos hc]

theorem State.emitByte_overRead {s : State} (h : s.busState = .readRequested) (hc : s.txLength ≤ s.txCount) :
    s.emitByte = some (s.failRead .overRead) := by
  unfold State.emitByte
  rw [if_pos h, if_neg (Nat.not_lt.2 hc)]

theorem State.emitByte_readState {s : State} (h : s.busState ≠ .readRequested) : s.emitByte = some (s.failRead .readState) := by
  unfold State.emitByte
  rw [if_neg h]

/-- Everything a ReadRequested that answers can have done (R125). -/
theorem State.emitByte_cases {s t : State} (h : s.emitByte = some t) :
    (s.busState = .readRequested ∧ s.txCount < s.txLength ∧ ∃ b, s.mem.peek .tx s.txCount = some b ∧
      t = { s.answer (.byte b) with txCount := s.txCount + 1 }) ∨ ∃ k, t = s.failRead k := by
  unfold State.emitByte at h
  split at h
  · split at h
    · rename_i hb hc
      rw [Option.map_eq_some_iff] at h
      obtain ⟨b, hp, rfl⟩ := h
      exact .inl ⟨hb, hc, b, hp, rfl⟩
    · exact .inr ⟨_, (Option.some.inj h).symm⟩
  · exact .inr ⟨_, (Option.some.inj h).symm⟩

end Sys2Proof.Machine
end

