-- ==== Sys2Proof/Laws/Decode.lean ====
section
/-! SUPPORT. What each operand reader of the decoder can do, and that it reads back what the encoder writes. -/

namespace Sys2Proof

/-- The two bytes of a 16-bit operand, joined, are the operand. -/
theorem half_join (v : Half) : (v.extractLsb' 8 8 ++ v.extractLsb' 0 8 : Half) = v := by
  apply BitVec.eq_of_getLsbD_eq
  intro i hi
  show (BitVec.append _ _).getLsbD i = _
  rw [show ∀ a b : Byte, BitVec.append a b = a ++ b from fun _ _ => rfl, BitVec.getLsbD_append]
  by_cases h : i < 8
  · simp [h]
  · simp [h, show i - 8 < 8 by omega]
    congr 1
    omega

theorem lengthByte_toNat {n : Nat} (h : n < 256) : (lengthByte n).toNat = n := by
  simp [lengthByte, Nat.mod_eq_of_lt h]

theorem lengthByte_of_toNat (b : Byte) : lengthByte b.toNat = b := by simp [lengthByte]

/-- A reader of one byte that answers has taken one byte. -/
theorem takeByte_ok {bs : List Byte} {k : Byte → List Byte → Decoded} {r : Instr × List Byte} (h : takeByte bs k = .ok r) :
    ∃ b rest, bs = b :: rest ∧ k b rest = .ok r := by
  cases bs with
  | nil => cases h
  | cons b rest => exact ⟨b, rest, rfl, h⟩

/-- A boolean reader that answers has taken 0x00 or 0x01. -/
theorem takeFlag_ok {kind : Byte} {bs : List Byte} {k : Bool → List Byte → Decoded} {r : Instr × List Byte}
    (h : takeFlag kind bs k = .ok r) : ∃ v rest, bs = flagByte v :: rest ∧ k v rest = .ok r := by
  obtain ⟨b, rest, rfl, h1⟩ := takeByte_ok h
  clear h
  split at h1
  · subst_vars
    exact ⟨false, rest, rfl, h1⟩
  · split at h1
    · subst_vars
      exact ⟨true, rest, rfl, h1⟩
    · cases h1

theorem takeHalf_halfBytes (v : Half) (rest : List Byte) (k : Half → List Byte → Decoded) :
    takeHalf (halfBytes v ++ rest) k = k v rest := by
  simp only [takeHalf, takeByte, halfBytes, List.cons_append, List.nil_append, half_join]

theorem takeBytes_encoded {bs : List Byte} (h : bs.length < 256) (rest : List Byte) (k : List Byte → List Byte → Decoded) :
    takeBytes (lengthByte bs.length :: (bs ++ rest)) k = k bs rest := by
  simp [takeBytes, takeByte, lengthByte_toNat h]

/-- A reader of a byte sequence that answers has taken its length and that many bytes. -/
theorem takeBytes_ok {bs : List Byte} {k : List Byte → List Byte → Decoded} {r : Instr × List Byte} (h : takeBytes bs k = .ok r) :
    ∃ v rest, bs = lengthByte v.length :: (v ++ rest) ∧ v.length < 256 ∧ k v rest = .ok r := by
  obtain ⟨a, rest, rfl, h1⟩ := takeByte_ok h
  clear h
  split at h1
  · cases h1
  · have hl : (rest.take a.toNat).length = a.toNat := by
      rw [List.length_take]
      omega
    refine ⟨_, _, ?_, ?_, h1⟩
    · rw [hl, lengthByte_of_toNat, List.take_append_drop]
    · rw [hl]
      exact a.isLt

/-- Decoding what was encoded reads the kind byte, then the operand bytes. -/
theorem decode_encode (i : Instr) (rest : List Byte) :
    decode (encode i ++ rest) = decodeOperands (kindByte i) (operandBytes i ++ rest) := rfl

end Sys2Proof
end

