-- ==== Sys2Proof/Laws/OneWire.lean ====
section
/-! SUPPORT. What a one-wire slot and the sequencer's move after it can do: they touch the driver's own elements, and of the index spaces
at most one byte of scratch. -/

namespace Sys2Proof.Machine

/-- What the driver leaves as it was (R233), and the one byte of scratch it may write. -/
structure DriverFrame (s t : State) : Prop where
  bus : SameBus s t
  params : t.params = s.params
  snapshot : t.snapshot = s.snapshot
  inbox : t.inbox = s.inbox
  turns : t.turns = s.turns
  mem : t.mem = s.mem ∨ ∃ k v, s.mem.write .scratch k [v] = some t.mem

theorem SameBus.refl (s : State) : SameBus s s := by constructor <;> rfl

theorem SameBus.trans {s t u : State} (h : SameBus s t) (h' : SameBus t u) : SameBus s u :=
  ⟨h'.1.trans h.1, h'.2.trans h.2, h'.3.trans h.3, h'.4.trans h.4, h'.5.trans h.5, h'.6.trans h.6⟩

/-- A move of the sequencer: new values of the driver's own elements, and at most one byte of scratch. -/
theorem DriverFrame.moved {s : State} {m : Memory} {q : OwSeq} {bit : Fin 8} {byte : Fin 9} {polls : Nat} {r : OwResult} {v : Byte}
    {ok : Bool} {c : Option ByteCall} (hm : m = s.mem ∨ ∃ k b, s.mem.write .scratch k [b] = some m) :
    DriverFrame s { s with
      mem := m, owSeq := q, bitIndex := bit, byteIndex := byte, pollCount := polls, owResult := r, owByte := v, owOk := ok, owCall := c } where
  bus := by constructor <;> rfl
  params := rfl
  snapshot := rfl
  inbox := rfl
  turns := rfl
  mem := hm

theorem DriverFrame.refl (s : State) : DriverFrame s s := .moved (.inl rfl)

/-- A change of the driver's own elements first, then a move of the sequencer. -/
theorem DriverFrame.after {s s' t : State} (h : DriverFrame s' t) (hb : SameBus s s') (hp : s'.params = s.params)
    (hn : s'.snapshot = s.snapshot) (hi : s'.inbox = s.inbox) (ht : s'.turns = s.turns) (hm : s'.mem = s.mem) : DriverFrame s t :=
  ⟨hb.trans h.bus, h.params.trans hp, h.snapshot.trans hn, h.inbox.trans hi, h.turns.trans ht, by rw [← hm]; exact h.mem⟩

theorem State.storeScratch_frame {s t : State} (h : s.storeScratch = some t) : DriverFrame s t := by
  simp only [State.storeScratch, Option.bind_eq_some_iff] at h
  obtain ⟨m, hm, h⟩ := h
  split at h
  · simp only [Option.map_eq_some_iff] at h
    obtain ⟨ok, _, rfl⟩ := h
    exact .moved (.inr ⟨_, _, hm⟩)
  · cases h
    exact .moved (.inr ⟨_, _, hm⟩)

theorem State.afterByte_frame {s t : State} (h : s.afterByte = some t) : DriverFrame s t := by
  unfold State.afterByte at h
  split at h
  case h_5 => exact State.storeScratch_frame h
  all_goals cases h; exact .moved (.inl rfl)

theorem State.afterBit_frame {s t : State} (h : s.afterBit = some t) : DriverFrame s t := by
  unfold State.afterBit at h
  split at h
  · exact (State.afterByte_frame h).after (by constructor <;> rfl) rfl rfl rfl rfl rfl
  · cases h
    exact .moved (.inl rfl)

theorem State.afterPoll_frame (s : State) (r : Bool) : DriverFrame s (s.afterPoll r) := by
  unfold State.afterPoll
  split
  · exact .moved (.inl rfl)
  · dsimp only
    split
    · exact .moved (.inl rfl)
    · split <;> exact .moved (.inl rfl)

theorem State.afterRead_frame {s t : State} {r : Bool} (h : s.afterRead r = some t) : DriverFrame s t := by
  unfold State.afterRead at h
  split at h
  · cases h
    exact State.afterPoll_frame s r
  · exact (State.afterBit_frame h).after (by constructor <;> rfl) rfl rfl rfl rfl rfl

/-- The move after a reset slot writes no byte at all. -/
theorem State.afterReset_frame {s t : State} {p : Bool} (h : s.afterReset p = some t) : DriverFrame s t ∧ t.mem = s.mem := by
  unfold State.afterReset at h
  split at h
  · split at h <;> (cases h; exact ⟨.moved (.inl rfl), rfl⟩)
  · cases h; exact ⟨.moved (.inl rfl), rfl⟩
  · split at h
    · simp only [Option.map_eq_some_iff] at h
      obtain ⟨_, _, rfl⟩ := h
      exact ⟨.moved (.inl rfl), rfl⟩
    · cases h; exact ⟨.moved (.inl rfl), rfl⟩
  all_goals cases h; exact ⟨DriverFrame.refl s, rfl⟩

theorem State.advance_frame {s t : State} {slot : Slot} {level : Bool} (h : s.advance slot level = some t) : DriverFrame s t := by
  cases slot with
  | reset => exact (State.afterReset_frame h).1
  | write b => exact State.afterBit_frame h
  | read => exact State.afterRead_frame h

/-- The state a slot leaves on the line, with its answer, before the sequencer moves. -/
def State.slotDone (s : State) (slot : Slot) : State := (s.runSlot slot).1.answer (slotAnswer slot (s.runSlot slot).2)

theorem State.slotDone_eq (s : State) (slot : Slot) :
    s.slotDone slot = match slot with
      | .write _ => { s with owDrive := .released, result := .none }
      | .reset => { s.countSample with owDrive := .released, result := .flag (!s.sensorAnswer) }
      | .read => { s.countSample with owDrive := .released, result := .bit s.sensorAnswer } := by
  unfold State.slotDone
  rw [State.runSlot_eq]
  cases slot <;> rfl

/-- A slot, its line and its move apart: the sequencer moves only at the slot it stands at (log 12). -/
theorem State.slot_eq (s : State) (slot : Slot) :
    s.slot slot = if s.nextSlot = some slot then (s.slotDone slot).advance slot (s.runSlot slot).2 else some (s.slotDone slot) := rfl

theorem State.slotDone_frame (s : State) (slot : Slot) :
    SameBus s (s.slotDone slot) ∧ (s.slotDone slot).params = s.params ∧ (s.slotDone slot).snapshot = s.snapshot ∧
      (s.slotDone slot).inbox = s.inbox ∧ (s.slotDone slot).turns = s.turns ∧ (s.slotDone slot).mem = s.mem ∧
      (s.slotDone slot).owDrive = .released := by
  rw [State.slotDone_eq]
  cases slot <;> dsimp only <;> (try rw [State.countSample_cases]) <;> exact ⟨by constructor <;> rfl, rfl, rfl, rfl, rfl, rfl, rfl⟩

/-- Everything outside the driver a slot leaves as it was. -/
theorem State.slot_frame {s t : State} {slot : Slot} (h : s.slot slot = some t) : DriverFrame s t := by
  rw [State.slot_eq] at h
  obtain ⟨hb, hp, hn, hi, ht, hm, _⟩ := s.slotDone_frame slot
  split at h
  · exact (State.advance_frame h).after hb hp hn hi ht hm
  · cases h
    exact (DriverFrame.refl _).after hb hp hn hi ht hm

/-- What a byte call that answers has done. -/
theorem State.callByte_cases {s t : State} {c : ByteCall} (h : s.callByte c = .next t) :
    s.driverBusy = false ∧ t = (s.answer .none).startByteCall c := by
  unfold State.callByte at h
  split at h
  · cases h
  · rename_i hb
    cases h
    exact ⟨by simpa using hb, rfl⟩

/-- A scratchpad of nine bytes can be written, checked and decoded: no slot is without an outcome. -/
theorem State.storeScratch_exists {s : State} (h : s.mem.scratch.length = scratchCap) : ∃ t, s.storeScratch = some t := by
  unfold State.storeScratch
  rw [Memory.write_of_le (by simp only [Memory.space_scratch, List.length_singleton, h, scratchCap]; omega)]
  simp only [Option.bind_some]
  split
  · rw [verify_of_lt (by simp only [Memory.setSpace, Memory.space_scratch, List.length_append, List.length_take, List.length_singleton, List.length_drop, h, scratchCap]; omega)]
    exact ⟨_, rfl⟩
  · exact ⟨_, rfl⟩

theorem decodeScratch_exists {bytes : List Byte} (h : 2 ≤ bytes.length) : ∃ t, decodeScratch bytes = some t := by
  match bytes, h with
  | lo :: hi :: rest, _ => exact ⟨_, rfl⟩

theorem State.afterBit_exists {s : State} (h : s.mem.scratch.length = scratchCap) : ∃ t, s.afterBit = some t := by
  unfold State.afterBit
  split
  · unfold State.afterByte
    split
    case h_5 => exact State.storeScratch_exists h
    all_goals exact ⟨_, rfl⟩
  · exact ⟨_, rfl⟩

theorem State.advance_exists {s : State} (h : s.mem.scratch.length = scratchCap) (slot : Slot) (level : Bool) :
    ∃ t, s.advance slot level = some t := by
  cases slot with
  | reset =>
    simp only [State.advance]
    unfold State.afterReset
    split
    · split <;> exact ⟨_, rfl⟩
    · exact ⟨_, rfl⟩
    · split
      · obtain ⟨t, ht⟩ := decodeScratch_exists (bytes := s.mem.scratch) (by rw [h]; decide)
        rw [ht]
        exact ⟨_, rfl⟩
      · exact ⟨_, rfl⟩
    all_goals exact ⟨_, rfl⟩
  | write b => exact State.afterBit_exists h
  | read =>
    simp only [State.advance]
    unfold State.afterRead
    split
    · exact ⟨_, rfl⟩
    · exact State.afterBit_exists (s := { s with owByte := assembleBit s.owByte s.bitIndex level }) h

/-- With a scratchpad of nine bytes every slot answers a next state. -/
theorem State.slot_exists {s : State} (h : s.mem.scratch.length = scratchCap) (slot : Slot) : ∃ t, s.slot slot = some t := by
  have hd : (s.slotDone slot).mem.scratch.length = scratchCap := by rw [(s.slotDone_frame slot).2.2.2.2.2.1, h]
  rw [State.slot_eq]
  split
  · exact State.advance_exists hd slot _
  · exact ⟨_, rfl⟩

end Sys2Proof.Machine
end

