-- ==== Sys2Proof/Laws/PerInstr.lean ====
section
/-! SUPPORT. Families stated per operation, one lemma per constructor. EncodingFits: the stream form of a well-formed operation opens with
its kind byte and is no longer than the longest form, so a word posted with that many bytes holds any operation whole. -/

namespace Sys2Proof.Laws

/-- The stream form of a well-formed operation opens with its kind byte and fits the longest form. -/
def EncodingFits.Statement (i : Instr) : Prop :=
  i.wellFormed = true → (encode i).head? = some (kindByte i) ∧ (encode i).length ≤ longestEncoding

theorem fits_of_operands {i : Instr} (h : i.wellFormed = true → (operandBytes i).length < longestEncoding) : EncodingFits.Statement i :=
  fun hw => ⟨rfl, by have := h hw; simp only [encode, List.length_cons]; omega⟩

theorem fits_of_short {i : Instr} (h : Nat.ble (operandBytes i).length 11 = true) : EncodingFits.Statement i :=
  fits_of_operands fun _ => Nat.lt_of_le_of_lt (Nat.le_of_ble_eq_true h) (by decide)

theorem fits_of_bytes {bs : List Byte} (h : lengthFits bs.length = true) : bs.length + 1 < longestEncoding := by
  simp only [lengthFits, decide_eq_true_eq] at h
  simp only [longestEncoding]
  omega

theorem fits_of_buffer {buf : List Byte} {len : Nat} (h : (lengthFits buf.length && bufferFits buf len) = true) :
    (bufferBytes buf len).length < longestEncoding := by
  have h2 : buf.length < 256 := by simpa [lengthFits] using (Bool.and_eq_true_iff.1 h).1
  simp only [bufferBytes, List.length_cons, longestEncoding]
  omega

theorem EncodingFits.wr : EncodingFits.Statement (.wr) :=
  fits_of_short rfl

theorem EncodingFits.rx (b : Byte) : EncodingFits.Statement (.rx b) :=
  fits_of_short rfl

theorem EncodingFits.wc : EncodingFits.Statement (.wc) :=
  fits_of_short rfl

theorem EncodingFits.rd : EncodingFits.Statement (.rd) :=
  fits_of_short rfl

theorem EncodingFits.sp : EncodingFits.Statement (.sp) :=
  fits_of_short rfl

theorem EncodingFits.accept (expected : Nat) : EncodingFits.Statement (.accept expected) :=
  fits_of_short rfl

theorem EncodingFits.setChannels (form : Form) : EncodingFits.Statement (.setChannels form) :=
  by cases form <;> exact fits_of_short rfl

theorem EncodingFits.getTemp : EncodingFits.Statement (.getTemp) :=
  fits_of_short rfl

theorem EncodingFits.getAirTempHumidity : EncodingFits.Statement (.getAirTempHumidity) :=
  fits_of_short rfl

theorem EncodingFits.getDepth : EncodingFits.Statement (.getDepth) :=
  fits_of_short rfl

theorem EncodingFits.unrecognized : EncodingFits.Statement (.unrecognized) :=
  fits_of_short rfl

theorem EncodingFits.accumulatePec (s b : Byte) : EncodingFits.Statement (.accumulatePec s b) :=
  fits_of_short rfl

theorem EncodingFits.crcPec (bytes : List Byte) : EncodingFits.Statement (.crcPec bytes) :=
  fits_of_operands fun h => fits_of_bytes h

theorem EncodingFits.appendPec (buf : List Byte) (len : Nat) : EncodingFits.Statement (.appendPec buf len) :=
  fits_of_operands fun h => fits_of_buffer h

theorem EncodingFits.verifyPec (buf : List Byte) (len : Nat) : EncodingFits.Statement (.verifyPec buf len) :=
  fits_of_operands fun h => fits_of_buffer h

theorem EncodingFits.accumulateOw (s b : Byte) : EncodingFits.Statement (.accumulateOw s b) :=
  fits_of_short rfl

theorem EncodingFits.crcOw (bytes : List Byte) : EncodingFits.Statement (.crcOw bytes) :=
  fits_of_operands fun h => fits_of_bytes h

theorem EncodingFits.appendOw (buf : List Byte) (len : Nat) : EncodingFits.Statement (.appendOw buf len) :=
  fits_of_operands fun h => fits_of_buffer h

theorem EncodingFits.verifyOw (buf : List Byte) (len : Nat) : EncodingFits.Statement (.verifyOw buf len) :=
  fits_of_operands fun h => fits_of_buffer h

theorem EncodingFits.owReset : EncodingFits.Statement (.owReset) :=
  fits_of_short rfl

theorem EncodingFits.owWriteBit (b : Bool) : EncodingFits.Statement (.owWriteBit b) :=
  fits_of_short rfl

theorem EncodingFits.owReadBit : EncodingFits.Statement (.owReadBit) :=
  fits_of_short rfl

theorem EncodingFits.owWriteByte (v : Byte) : EncodingFits.Statement (.owWriteByte v) :=
  fits_of_short rfl

theorem EncodingFits.owReadByte : EncodingFits.Statement (.owReadByte) :=
  fits_of_short rfl

theorem EncodingFits.acquireTemperature : EncodingFits.Statement (.acquireTemperature) :=
  fits_of_short rfl

theorem EncodingFits.skipRom : EncodingFits.Statement (.skipRom) :=
  fits_of_short rfl

theorem EncodingFits.convertT : EncodingFits.Statement (.convertT) :=
  fits_of_short rfl

theorem EncodingFits.readScratchpad : EncodingFits.Statement (.readScratchpad) :=
  fits_of_short rfl

theorem EncodingFits.qerr : EncodingFits.Statement (.qerr) :=
  fits_of_short rfl

theorem EncodingFits.clr : EncodingFits.Statement (.clr) :=
  fits_of_short rfl

theorem EncodingFits.en (v : Bool) : EncodingFits.Statement (.en v) :=
  fits_of_short rfl

theorem EncodingFits.pub (snap : Snapshot) : EncodingFits.Statement (.pub snap) :=
  fits_of_short rfl

theorem EncodingFits.chan : EncodingFits.Statement (.chan) :=
  fits_of_short rfl

theorem EncodingFits.rst : EncodingFits.Statement (.rst) :=
  fits_of_short rfl

end Sys2Proof.Laws
end

