-- ==== Sys2Proof/Laws/Step.lean ====
section
/-! SUPPORT. What a step can do, said once: it takes an operation from the schedule and runs it, or waits. -/

namespace Sys2Proof.Machine

theorem fetchPosted_run {s u : State} {i : Instr} (h : fetchPosted s = .run i u) :
    ∃ rest, decode s.inbox = .ok (i, rest) ∧ u = { s with inbox := rest } := by
  unfold fetchPosted at h
  split at h
  · cases h
  · rename_i b bs hb
    split at h
    · rename_i j rest hd
      cases h
      exact ⟨rest, by rw [hb]; exact hd, rfl⟩
    · cases h

theorem fetchPosted_eq {s : State} {i : Instr} {rest : List Byte} (h : decode s.inbox = .ok (i, rest)) :
    fetchPosted s = .run i { s with inbox := rest } := by
  unfold fetchPosted
  split
  · rename_i hb
    rw [hb] at h
    cases h
  · rename_i hb
    rw [← hb, h]

theorem fetchPosted_bad {s : State} {e : DecodeError} (h : decode s.inbox = .error e) (hne : s.inbox ≠ []) : fetchPosted s = .bad e := by
  unfold fetchPosted
  split
  · rename_i hb
    exact absurd hb hne
  · rename_i hb
    rw [← hb, h]

theorem fetchPosted_wait {s u : State} (h : fetchPosted s = .wait u) : u = s := by
  unfold fetchPosted at h
  split at h
  · exact (Fetch.wait.inj h).symm
  · split at h <;> cases h

theorem fetchSlot_run {s u : State} {i : Instr} (h : fetchSlot s = .run i u) :
    u = s ∧ ∃ slot, s.nextSlot = some slot ∧ i = slot.instr := by
  unfold fetchSlot at h
  split at h
  · cases h
  · rename_i slot hs
    cases h
    exact ⟨rfl, slot, hs, rfl⟩

theorem fetchSlot_wait {s u : State} (h : fetchSlot s = .wait u) : u = s := by
  unfold fetchSlot at h
  split at h
  · exact (Fetch.wait.inj h).symm
  · cases h

/-- Fetching an operation consumes the schedule and the stream, and touches nothing else. -/
theorem fetch_run_frame {s u : State} {i : Instr} (h : fetch s = .run i u) :
    u = { s with inbox := u.inbox, turns := u.turns } := by
  unfold fetch at h
  split at h
  · obtain ⟨_, _, rfl⟩ := fetchPosted_run h; rfl
  · obtain ⟨rfl, _⟩ := fetchSlot_run h; rfl
  · split at h
    · obtain ⟨rfl, _⟩ := fetchSlot_run h; rfl
    · obtain ⟨_, _, rfl⟩ := fetchPosted_run h; rfl

/-- Waiting consumes the schedule at most. -/
theorem fetch_wait_frame {s u : State} (h : fetch s = .wait u) : u = { s with turns := u.turns } := by
  unfold fetch at h
  split at h
  · rw [fetchPosted_wait h]
  · rw [fetchSlot_wait h]
  · split at h
    · rw [fetchSlot_wait h]
    · rw [fetchPosted_wait h]

/-- Everything a step that answers a next state can be. -/
theorem step_cases {s t : State} (h : step s = .next t) :
    s.params.admitted = true ∧ ((∃ i u, fetch s = .run i u ∧ exec i u = .next t) ∨ fetch s = .wait t) := by
  unfold step at h
  split at h
  · rename_i ha
    refine ⟨ha, ?_⟩
    cases hf : fetch s with
    | run i u => rw [hf] at h; exact .inl ⟨i, u, rfl, h⟩
    | wait u => rw [hf] at h; cases h; exact .inr rfl
    | bad e => rw [hf] at h; cases h
  · cases h

end Sys2Proof.Machine
end

