-- ==== Sys2Proof/Laws/Run.lean ====
section
/-! SUPPORT. What the environment's addition changes, and how facts about one step become facts about a run. -/

namespace Sys2Proof.Machine

@[simp] theorem State.supplied_params (s : State) (e : Supply) : (s.supplied e).params = s.params := rfl
@[simp] theorem State.supplied_busState (s : State) (e : Supply) : (s.supplied e).busState = s.busState := rfl
@[simp] theorem State.supplied_mem (s : State) (e : Supply) : (s.supplied e).mem = s.mem := rfl
@[simp] theorem State.supplied_rxCount (s : State) (e : Supply) : (s.supplied e).rxCount = s.rxCount := rfl
@[simp] theorem State.supplied_txLength (s : State) (e : Supply) : (s.supplied e).txLength = s.txLength := rfl
@[simp] theorem State.supplied_txCount (s : State) (e : Supply) : (s.supplied e).txCount = s.txCount := rfl
@[simp] theorem State.supplied_enable (s : State) (e : Supply) : (s.supplied e).enable = s.enable := rfl
@[simp] theorem State.supplied_error (s : State) (e : Supply) : (s.supplied e).error = s.error := rfl
@[simp] theorem State.supplied_snapshot (s : State) (e : Supply) : (s.supplied e).snapshot = s.snapshot := rfl
@[simp] theorem State.supplied_owSeq (s : State) (e : Supply) : (s.supplied e).owSeq = s.owSeq := rfl
@[simp] theorem State.supplied_bitIndex (s : State) (e : Supply) : (s.supplied e).bitIndex = s.bitIndex := rfl
@[simp] theorem State.supplied_byteIndex (s : State) (e : Supply) : (s.supplied e).byteIndex = s.byteIndex := rfl
@[simp] theorem State.supplied_pollCount (s : State) (e : Supply) : (s.supplied e).pollCount = s.pollCount := rfl
@[simp] theorem State.supplied_owResult (s : State) (e : Supply) : (s.supplied e).owResult = s.owResult := rfl
@[simp] theorem State.supplied_owDrive (s : State) (e : Supply) : (s.supplied e).owDrive = s.owDrive := rfl
@[simp] theorem State.supplied_owByte (s : State) (e : Supply) : (s.supplied e).owByte = s.owByte := rfl
@[simp] theorem State.supplied_owOk (s : State) (e : Supply) : (s.supplied e).owOk = s.owOk := rfl
@[simp] theorem State.supplied_owCall (s : State) (e : Supply) : (s.supplied e).owCall = s.owCall := rfl
@[simp] theorem State.supplied_result (s : State) (e : Supply) : (s.supplied e).result = s.result := rfl
@[simp] theorem State.supplied_draws (s : State) (e : Supply) : (s.supplied e).draws = s.draws := rfl
@[simp] theorem State.supplied_inbox (s : State) (e : Supply) : (s.supplied e).inbox = s.inbox ++ streamOf e.posted := rfl
@[simp] theorem State.supplied_turns (s : State) (e : Supply) : (s.supplied e).turns = s.turns ++ e.turns := rfl
@[simp] theorem State.supplied_line (s : State) (e : Supply) : (s.supplied e).line = s.line ++ e.answers := rfl

/-- The environment cannot break the invariant. -/
theorem State.Inv.supplied {s : State} (h : s.Inv) (e : Supply) : (s.supplied e).Inv :=
  ⟨h.admitted, h.memory, h.rxBound, h.txSent, h.txBound, h.response⟩

theorem runSupplied_cons {s t : State} {e : Supply} (es : List Supply) (h : step (s.supplied e) = .next t) :
    runSupplied (e :: es) s = runSupplied es t := by
  simp only [runSupplied, h]

/-- What every step keeps, whatever the environment adds, holds all along an infinite run. -/
theorem InfiniteRun.induction {env : Nat → Supply} {states : Nat → State} (h : InfiniteRun env states) {P : State → Prop} (h0 : P (states 0))
    (hs : ∀ n t, P (states n) → step ((states n).supplied (env n)) = .next t → P t) (n : Nat) : P (states n) := by
  induction n with
  | zero => exact h0
  | succ n ih => exact hs n _ ih (h n)

/-- An infinite run seen from its next state on. -/
theorem InfiniteRun.tail {env : Nat → Supply} {states : Nat → State} (h : InfiniteRun env states) :
    InfiniteRun (fun n => env (n + 1)) (fun n => states (n + 1)) := fun n => h (n + 1)

/-- The first `n` steps of an infinite run are a finite run, with the state before step `n` as its end state. -/
theorem InfiniteRun.prefix_end {env : Nat → Supply} {states : Nat → State} (h : InfiniteRun env states) (n : Nat) :
    runSupplied ((List.range n).map env) (states 0) = .next (states n) := by
  induction n generalizing env states with
  | zero => rfl
  | succ n ih =>
    rw [List.range_succ_eq_map, List.map_cons, List.map_map, runSupplied_cons _ (h 0)]
    exact ih h.tail

theorem runStates_zero (env : Nat → Supply) (s : State) : runStates env s 0 = s := rfl

theorem runStates_succ {env : Nat → Supply} {s t : State} {n : Nat} (h : step ((runStates env s n).supplied (env n)) = .next t) :
    runStates env s (n + 1) = t := by
  simp only [runStates, h]

/-- An infinite run is the one run from its first state. -/
theorem InfiniteRun.eq_runStates {env : Nat → Supply} {states : Nat → State} (h : InfiniteRun env states) (n : Nat) :
    states n = runStates env (states 0) n := by
  induction n with
  | zero => rfl
  | succ n ih => exact (runStates_succ (ih ▸ h n)).symm

/-- Where a step always answers a next state and keeps what makes it answer, the run goes on forever. -/
theorem InfiniteRun.of_total {env : Nat → Supply} {P : State → Prop} (hs : ∀ n s, P s → ∃ t, step (s.supplied (env n)) = .next t ∧ P t)
    {s : State} (h0 : P s) : InfiniteRun env (runStates env s) := by
  have hp : ∀ n, P (runStates env s n) := by
    intro n
    induction n with
    | zero => exact h0
    | succ n ih =>
      obtain ⟨t, ht, hPt⟩ := hs n _ ih
      rw [runStates_succ ht]
      exact hPt
  intro n
  obtain ⟨t, ht, _⟩ := hs n _ (hp n)
  rw [runStates_succ ht, ht]

end Sys2Proof.Machine
end

