-- ==== Sys2Proof/Laws/Sequencer.lean ====
section
/-! SUPPORT. Steps of the MainLoop, one slot each: how runs of them compose, and what the slot of a byte operation does. -/

namespace Sys2Proof.Machine

theorem exec_slot (s : State) (slot : Slot) : exec slot.instr s = finish (s.slot slot) := by cases slot <;> rfl

theorem mainLoopStep_eq {s : State} {slot : Slot} (h : s.nextSlot = some slot) : mainLoopStep s = finish (s.slot slot) := by
  unfold mainLoopStep
  rw [h]
  exact exec_slot s slot

@[simp] theorem runSlots_zero (s : State) : runSlots 0 s = .next s := rfl

theorem runSlots_of_step {s t : State} (n : Nat) (h : mainLoopStep s = .next t) : runSlots (n + 1) s = runSlots n t := by
  simp only [runSlots, h]

/-- Two runs of slots, one after the other. -/
theorem runSlots_add {s t : State} {n : Nat} (m : Nat) (h : runSlots n s = .next t) : runSlots (n + m) s = runSlots m t := by
  induction n generalizing s with
  | zero => cases h; rw [Nat.zero_add]
  | succ n ih =>
    rw [Nat.succ_add]
    simp only [runSlots] at h ⊢
    cases hm : mainLoopStep s with
    | next u => rw [hm] at h; exact ih h
    | fault r => rw [hm] at h; cases h
    | refused r => rw [hm] at h; cases h

theorem nextSlot_of_byteCall {s : State} {c : ByteCall} (h : s.byteCall = some c) : s.nextSlot = s.byteSlot ∧ s.owSeq ≠ .poll := by
  unfold State.nextSlot
  unfold State.byteCall at h
  cases hq : s.owSeq <;> rw [hq] at h <;> first | exact ⟨rfl, by decide⟩ | cases h

theorem nextSlot_of_write {s : State} {v : Byte} (h : s.byteCall = some (.write v)) : s.nextSlot = some (.write (wireBit v s.bitIndex)) := by
  rw [(nextSlot_of_byteCall h).1, State.byteSlot, h]
  rfl

theorem nextSlot_of_read {s : State} (h : s.byteCall = some .read) : s.nextSlot = some .read := by
  rw [(nextSlot_of_byteCall h).1, State.byteSlot, h]
  rfl

theorem slot_write_eq {s : State} {b : Bool} (h : s.nextSlot = some (.write b)) :
    s.slot (.write b) = ({ s with owDrive := .released, result := .none } : State).afterBit := by
  rw [State.slot_eq, if_pos h, State.slotDone_eq]
  rfl

theorem slot_read_eq {s : State} (h : s.nextSlot = some .read) :
    s.slot .read = ({ s.countSample with owDrive := .released, result := .bit s.sensorAnswer } : State).afterRead s.sensorAnswer := by
  rw [State.slot_eq, if_pos h, State.slotDone_eq, State.runSlot_eq]
  rfl

theorem slot_reset_eq {s : State} (h : s.nextSlot = some .reset) :
    s.slot .reset = ({ s.countSample with owDrive := .released, result := .flag (!s.sensorAnswer) } : State).afterReset (!s.sensorAnswer) := by
  rw [State.slot_eq, if_pos h, State.slotDone_eq, State.runSlot_eq]
  rfl

theorem afterPoll_mem (s : State) (r : Bool) : (s.afterPoll r).mem = s.mem := by
  unfold State.afterPoll
  split
  · rfl
  · dsimp only
    split
    · rfl
    · split <;> rfl

theorem storeScratch_mem {s t : State} (h : s.storeScratch = some t) : s.mem.write .scratch s.byteIndex [s.owByte] = some t.mem := by
  unfold State.storeScratch at h
  obtain ⟨m, hm, h⟩ := Option.bind_eq_some_iff.1 h
  split at h
  · obtain ⟨_, _, rfl⟩ := Option.map_eq_some_iff.1 h
    exact hm
  · cases h
    exact hm

/-- What a slot of a byte operation writes of the index spaces: the byte it completes at READSP, and nothing else (R180). -/
theorem afterBit_mem {s t : State} (h : s.afterBit = some t) :
    (s.owSeq = .readSp → s.bitIndex = 7 → s.mem.write .scratch s.byteIndex [s.owByte] = some t.mem) ∧
      (s.owSeq ≠ .readSp ∨ s.bitIndex ≠ 7 → t.mem = s.mem) := by
  unfold State.afterBit at h
  split at h
  · rename_i hb
    by_cases hq : s.owSeq = .readSp
    · simp only [State.afterByte, hq] at h
      exact ⟨fun _ _ => by have := storeScratch_mem h; exact this, fun hn => hn.elim (absurd hq) (absurd hb)⟩
    · refine ⟨fun hq' => absurd hq' hq, fun _ => ?_⟩
      unfold State.afterByte at h
      split at h
      case h_5 hq' => exact absurd hq' hq
      all_goals cases h; rfl
  · rename_i hb
    cases h
    exact ⟨fun _ hb' => absurd hb' hb, fun _ => rfl⟩

/-- What a read slot writes of the index spaces: the byte it completes at READSP (R176, R180), and nothing else. -/
theorem slot_read_mem {s t : State} (h : s.slot .read = some t) :
    (s.owSeq = .readSp → s.bitIndex = 7 → s.mem.write .scratch s.byteIndex [assembleBit s.owByte 7 s.sensorAnswer] = some t.mem) ∧
      (s.owSeq ≠ .readSp ∨ s.bitIndex ≠ 7 → t.mem = s.mem) := by
  by_cases hn : s.nextSlot = some .read
  · rw [slot_read_eq hn, State.countSample_cases, State.afterRead] at h
    by_cases hq : s.owSeq = .poll
    · rw [if_pos (by exact hq)] at h
      cases h
      exact ⟨fun hq' => absurd (hq.symm.trans hq') (by decide), fun _ => afterPoll_mem _ _⟩
    · rw [if_neg (by exact hq)] at h
      have hw := afterBit_mem h
      exact ⟨fun hq' hb => by rw [← hb]; exact hw.1 hq' hb, hw.2⟩
  · rw [State.slot_eq, if_neg hn] at h
    cases h
    exact ⟨fun hq => absurd (by simp [State.nextSlot, State.byteSlot, State.byteCall, hq]) hn, fun _ => (s.slotDone_frame .read).2.2.2.2.2.1⟩

/-- A bit of writeByte before the last (R175). -/
theorem write_step {s : State} {v : Byte} (h : s.byteCall = some (.write v)) (hb : s.bitIndex ≠ 7) :
    mainLoopStep s = .next { s with owDrive := .released, result := .none, bitIndex := s.bitIndex + 1 } := by
  rw [mainLoopStep_eq (nextSlot_of_write h), slot_write_eq (nextSlot_of_write h), State.afterBit, if_neg (by exact hb)]
  rfl

/-- The last bit of writeByte (R175). -/
theorem write_last {s : State} {v : Byte} (h : s.byteCall = some (.write v)) (hb : s.bitIndex = 7) :
    mainLoopStep s = finish ({ s with owDrive := .released, result := .none, bitIndex := 0 } : State).afterByte := by
  rw [mainLoopStep_eq (nextSlot_of_write h), slot_write_eq (nextSlot_of_write h), State.afterBit, if_pos (by exact hb)]

/-- A bit of readByte before the last, the sensor's answer given (R176). -/
theorem read_step {s : State} {b : Bool} {l : List Bool} (h : s.byteCall = some .read) (hb : s.bitIndex ≠ 7) (hl : s.line = b :: l) :
    mainLoopStep s = .next
      { s with owDrive := .released, result := .bit b, line := l, owByte := assembleBit s.owByte s.bitIndex b, bitIndex := s.bitIndex + 1 } := by
  rw [mainLoopStep_eq (nextSlot_of_read h), slot_read_eq (nextSlot_of_read h), State.afterRead, if_neg, State.afterBit, if_neg]
  · simp only [State.countSample, State.sensorAnswer, hl]
    rfl
  · simpa only [State.countSample, State.sensorAnswer, hl] using hb
  · simpa only [State.countSample, hl] using (nextSlot_of_byteCall h).2

/-- The last bit of readByte (R176). -/
theorem read_last {s : State} {b : Bool} {l : List Bool} (h : s.byteCall = some .read) (hb : s.bitIndex = 7) (hl : s.line = b :: l) :
    mainLoopStep s = finish ({ s with
      owDrive := .released, result := .bit b, line := l, owByte := assembleBit s.owByte 7 b, bitIndex := 0 } : State).afterByte := by
  rw [mainLoopStep_eq (nextSlot_of_read h), slot_read_eq (nextSlot_of_read h), State.afterRead, if_neg, State.afterBit, if_pos]
  · simp only [State.countSample, State.sensorAnswer, hl, hb]
  · simpa only [State.countSample, State.sensorAnswer, hl] using hb
  · simpa only [State.countSample, hl] using (nextSlot_of_byteCall h).2

/-- A slot at a reset position, the sensor's answer given (R177). -/
theorem reset_step {s t : State} {b : Bool} {l : List Bool} (h : s.nextSlot = some .reset) (hl : s.line = b :: l)
    (ht : ({ s with owDrive := .released, result := .flag (!b), line := l } : State).afterReset (!b) = some t) : mainLoopStep s = .next t := by
  rw [mainLoopStep_eq h, slot_reset_eq h]
  simp only [State.countSample, State.sensorAnswer, hl]
  exact finish_eq_next.2 ht

/-- A poll, the sensor's answer given (R179). -/
theorem poll_step {s : State} {b : Bool} {l : List Bool} (hq : s.owSeq = .poll) (hl : s.line = b :: l) :
    mainLoopStep s = .next (({ s with owDrive := .released, result := .bit b, line := l } : State).afterPoll b) := by
  have hn : s.nextSlot = some .read := by simp [State.nextSlot, hq]
  rw [mainLoopStep_eq hn, slot_read_eq hn, State.afterRead]
  simp only [State.countSample, State.sensorAnswer, hl]
  rw [if_pos hq]
  rfl

end Sys2Proof.Machine
end

