-- ==== Sys2Proof/Tests/Slice0.lean ====
section
/-! SUPPORT. The model's own tests. Expected values are those of 95_test_vectors.md, named by their row, or of the rule cited. A `word_`
name shows what the decoder reads from a word written out; a `wellFormed_` name, an operand the check refuses; a `test_` name, one step; a
`witness_` name, a state and operands that meet every hypothesis of the statement it names, at the boundary of each clause. -/

-- One thread for this file's many small kernel evaluations: together they would ask for more threads than the check's memory limit admits.
set_option Elab.async false

namespace Sys2Proof.Tests

open Sys2Proof Sys2Proof.Machine

/-! ### Helpers -/

/-- What a view shows of the next state; nothing where there is none. -/
def after {α : Type} (r : Result) (view : State → α) : Option α :=
  match r with
  | .next s => some (view s)
  | .fault _ => none
  | .refused _ => none

/-- What refusal an outcome is. -/
def refusal (r : Result) : Option Refusal :=
  match r with
  | .refused x => some x
  | .next _ => none
  | .fault _ => none

/-- The test configuration inside a write, with `bytes` received. -/
def writing (bytes : List Byte) : State :=
  { State.reset with
    busState := .writeRequested
    rxCount := bytes.length
    mem := { State.reset.mem with rx := bytes ++ List.replicate (35 - bytes.length) 0 } }

/-- The test configuration inside a read of `response`, `sent` bytes of it emitted. -/
def reading (response : List Byte) (sent : Nat) : State :=
  { State.reset with
    busState := .readRequested
    txLength := response.length
    txCount := sent
    mem := { State.reset.mem with tx := response ++ List.replicate (33 - response.length) 0 } }

/-- The test configuration with a published snapshot of L2.3. -/
def published : State :=
  { State.reset with
    snapshot := { temperature := { integerPart := 25, fractionalPart := 0, rawRegister := 0x0190 },
                  humidity := { temperature := 0x00FA, humidity := 0x01C2 }, depth := 0x1234 } }

/-- The test configuration with the driver at a position and a bit, and the sensor's next answers. -/
def driving (q : OwSeq) (bit : Fin 8) (line : List Bool) : State := { State.reset with owSeq := q, bitIndex := bit, line := line }

/-- The test configuration at its poll, `n` polls of 0 counted, the last of them answered. -/
def polls (n : Nat) : State := { driving .poll 0 [] with pollCount := n, result := .bit false }

/-- The poll-limited variant of R188, with POLL_LIMIT = 3 (A7v). -/
def limited : State := { State.reset with params := { State.reset.params with pollLimit := some 3 } }

/-- A build whose INTEGRITY_MODE is disabled, and one whose two channel counts differ (R8). -/
def build (i : IntegrityChoice) (n m : NumChannels) : BuildConfig :=
  { integrity := i, lengthChannels := n, bankChannels := m, params := Params.tc }

/-- The scratchpad sample of E6. -/
def scratchSample : List Byte := [0x90, 0x01, 0x4B, 0x46, 0x7F, 0xFF, 0x0C, 0x10, 0x33]

/-- The invariant as a check that evaluates. -/
def invCheck (s : State) : Bool :=
  s.params.admitted && s.mem.wf s.params && decide (s.rxCount ≤ s.params.rxCap) && decide (s.txCount ≤ s.txLength)
    && decide (s.txLength ≤ s.params.txCap)
    && (decide (s.busState ≠ .readRequested) || decide (s.txLength = 3) || decide (s.txLength = 5))

theorem inv_of_check {s : State} (h : invCheck s = true) : s.Inv := by
  simp only [invCheck, Bool.and_eq_true, Bool.or_eq_true, decide_eq_true_eq] at h
  obtain ⟨⟨⟨⟨⟨h1, h2⟩, h3⟩, h4⟩, h5⟩, h6⟩ := h
  exact ⟨h1, h2, h3, h4, h5, fun hr => h6.elim (fun h => h.elim (fun h => absurd hr h) .inl) .inr⟩

/-! ### Well-formedness: an ill-formed operand for each check -/

theorem wellFormed_accept_too_long : Instr.wellFormed (.accept 256) = false := by decide
theorem wellFormed_accept_longest : Instr.wellFormed (.accept 255) = true := by decide
theorem wellFormed_crcPec_too_long : Instr.wellFormed (.crcPec (List.replicate 256 0)) = false := by decide +kernel
theorem wellFormed_crcOw_too_long : Instr.wellFormed (.crcOw (List.replicate 256 0)) = false := by decide +kernel
theorem wellFormed_appendPec_short_buffer : Instr.wellFormed (.appendPec [0x01, 0x90] 2) = false := by decide
theorem wellFormed_appendPec_too_long : Instr.wellFormed (.appendPec (List.replicate 256 0) 2) = false := by decide +kernel
theorem wellFormed_verifyPec_short_buffer : Instr.wellFormed (.verifyPec [] 0) = false := by decide
theorem wellFormed_verifyPec_too_long : Instr.wellFormed (.verifyPec (List.replicate 256 0) 2) = false := by decide +kernel
theorem wellFormed_appendOw_short_buffer : Instr.wellFormed (.appendOw [0x01] 1) = false := by decide
theorem wellFormed_appendOw_too_long : Instr.wellFormed (.appendOw (List.replicate 256 0) 2) = false := by decide +kernel
theorem wellFormed_verifyOw_short_buffer : Instr.wellFormed (.verifyOw [0x01] 5) = false := by decide
theorem wellFormed_verifyOw_too_long : Instr.wellFormed (.verifyOw (List.replicate 256 0) 2) = false := by decide +kernel

/-! ### Decoding. The three function codes are the words R77 writes; every other word is the model's stream form (log 1). -/

theorem word_skipRom : decodeTableWord 8 0b11001100 = some .skipRom := by decide +kernel
theorem word_convertT : decodeTableWord 8 0b01000100 = some .convertT := by decide +kernel
theorem word_readScratchpad : decodeTableWord 8 0b10111110 = some .readScratchpad := by decide +kernel
theorem word_zero_is_none : decodeTableWord 8 0 = none := by decide +kernel
theorem word_codes_are_the_ones_sent : [skipRomCode, convertTCode, readScratchpadCode].map (fun c => decodeTableWord 8 c.toNat) =
    [some .skipRom, some .convertT, some .readScratchpad] := by decide +kernel
theorem word_wr : decode [0x60] = .ok (.wr, []) := rfl
theorem word_rx : decode [0x61, 0xA1, 0x62] = .ok (.rx 0xA1, [0x62]) := rfl
theorem word_wc : decode [0x62] = .ok (.wc, []) := rfl
theorem word_rd : decode [0x63] = .ok (.rd, []) := rfl
theorem word_sp : decode [0x64] = .ok (.sp, []) := rfl
theorem word_accept : decode [0x65, 0x09] = .ok (.accept 9, []) := rfl
theorem word_setChannels : decode [0x10, 0x01] = .ok (.setChannels .long, []) ∧ decode [0x10, 0x00] = .ok (.setChannels .short, []) := ⟨rfl, rfl⟩
theorem word_getTemp : decode [0x11] = .ok (.getTemp, []) := rfl
theorem word_getAirTempHumidity : decode [0x12] = .ok (.getAirTempHumidity, []) := rfl
theorem word_getDepth : decode [0x13] = .ok (.getDepth, []) := rfl
theorem word_unrecognized : decode [0x14] = .ok (.unrecognized, []) := rfl
theorem word_accumulatePec : decode [0x20, 0xFF, 0x01] = .ok (.accumulatePec 0xFF 0x01, []) := rfl
theorem word_crcPec : decode [0x21, 0x02, 0x01, 0x90, 0x64] = .ok (.crcPec [0x01, 0x90], [0x64]) := rfl
theorem word_appendPec : decode [0x22, 0x02, 0x03, 0x01, 0x90, 0x00] = .ok (.appendPec [0x01, 0x90, 0x00] 2, []) := rfl
theorem word_verifyPec : decode [0x23, 0x01, 0x02, 0xA1, 0x9D] = .ok (.verifyPec [0xA1, 0x9D] 1, []) := rfl
theorem word_accumulateOw : decode [0x28, 0x00, 0x7F] = .ok (.accumulateOw 0x00 0x7F, []) := rfl
theorem word_crcOw : decode [0x29, 0x01, 0xFF] = .ok (.crcOw [0xFF], []) := rfl
theorem word_appendOw : decode [0x2A, 0x01, 0x02, 0x01, 0x00] = .ok (.appendOw [0x01, 0x00] 1, []) := rfl
theorem word_verifyOw : decode [0x2B, 0x00, 0x01, 0x00] = .ok (.verifyOw [0x00] 0, []) := rfl
theorem word_owReset : decode [0x30] = .ok (.owReset, []) := rfl
theorem word_owWriteBit : decode [0x31, 0x01] = .ok (.owWriteBit true, []) := rfl
theorem word_owReadBit : decode [0x32] = .ok (.owReadBit, []) := rfl
theorem word_owWriteByte : decode [0x33, 0xCC] = .ok (.owWriteByte 0xCC, []) := rfl
theorem word_owReadByte : decode [0x34] = .ok (.owReadByte, []) := rfl
theorem word_acquireTemperature : decode [0x35] = .ok (.acquireTemperature, []) := rfl
theorem word_qerr : decode [0x50] = .ok (.qerr, []) := rfl
theorem word_clr : decode [0x51] = .ok (.clr, []) := rfl
theorem word_en : decode [0x52, 0x00] = .ok (.en false, []) := rfl
theorem word_pub : decode [0x53, 0x19, 0x00, 0x00, 0x01, 0x90, 0x00, 0xFA, 0x01, 0xC2, 0x12, 0x34] = .ok (.pub published.snapshot, []) := rfl
theorem word_chan : decode [0x54] = .ok (.chan, []) := rfl
theorem word_rst : decode [0x55] = .ok (.rst, []) := rfl
theorem word_bad_flag : decode [0x52, 0x02] = .error (.badOperand 0x52) := rfl
theorem word_bad_buffer : decode [0x22, 0x02, 0x02, 0x01, 0x90] = .error (.badOperand 0x22) := rfl
theorem word_truncated : decode [0x61] = .error .truncated := rfl
theorem word_unknown : decode [0x0F] = .error (.unknownKind 0x0F) := rfl

/-! ### One step of each operation -/

/-- B1, B3. -/
theorem test_wr_starts : after (exec .wr State.reset) (fun t => (t.busState, t.rxCount)) = some (.writeRequested, 0) := by decide +kernel
theorem test_wr_ignored_inside_a_write : after (exec .wr (writing [1, 2, 3])) (fun t => (t.busState, t.rxCount)) = some (.writeRequested, 3) := by
  decide +kernel
/-- B7, B8. -/
theorem test_rx_last_byte : after (exec (.rx 0x55) (writing (List.replicate 34 0))) (fun t => (t.mem.peek .rx 34, t.rxCount, t.error)) =
    some (some 0x55, 35, false) := by decide +kernel
theorem test_rx_overflow : after (exec (.rx 0x55) (writing (List.replicate 35 0))) (fun t => (t.busState, t.rxCount, t.error)) =
    some (.idle, 35, true) := by decide +kernel
/-- B13, B16. -/
theorem test_wc_get_temp_long : after (exec .wc { published with busState := .writeRequested, rxCount := 2, mem := (writing [0xA1, 0x9D]).mem })
    (fun t => (t.busState, t.txLength, t.txCount, t.mem.tx.take 3)) = some (.readRequested, 3, 0, [0x01, 0x90, 0x3B]) := by decide +kernel
theorem test_wc_unknown : after (exec .wc (writing [0xA4, 0x86])) (fun t => (t.busState, t.error)) = some (.idle, true) := by decide +kernel
/-- B20, B21. -/
theorem test_rd_last_byte : after (exec .rd (reading [0x01, 0x90, 0x3B] 2)) (fun t => (t.result, t.txCount, t.busState)) =
    some (.byte 0x3B, 3, .readRequested) := by decide +kernel
theorem test_rd_over_read : after (exec .rd (reading [0x01, 0x90, 0x3B] 3)) (fun t => (t.error, t.busState)) = some (true, .idle) := by
  decide +kernel
/-- B24. -/
theorem test_sp : after (exec .sp (writing [0xA1, 0x9D])) (fun t => (t.busState, t.error)) = some (.idle, false) := by decide +kernel
/-- B13, B15. -/
theorem test_accept_long : after (exec (.accept 1) (writing [0xA1, 0x9D])) (fun t => t.result) = some (.verdict .acceptedLong) := by
  decide +kernel
theorem test_accept_length : after (exec (.accept 1) (writing [0xA1, 0x00, 0x00])) (fun t => t.result) =
    some (.verdict (.rejected .protocolLength)) := by decide +kernel
/-- E5. -/
theorem test_setChannels_long : after (exec (.setChannels .long) (writing [0xA0, 0x10, 0x20, 0x30, 0x40, 0x50, 0x60, 0x70, 0x80, 0xDF]))
    (fun t => (t.mem.bank, t.error)) = some ([0x10, 0x20, 0x30, 0x40, 0x50, 0x60, 0x70, 0x80], false) := by decide +kernel
theorem test_setChannels_corrupt : after (exec (.setChannels .long) (writing [0xA0, 0x11, 0x20, 0x30, 0x40, 0x50, 0x60, 0x70, 0x80, 0xDF]))
    (fun t => (t.mem.bank, t.error)) = some (List.replicate 8 0, true) := by decide +kernel
/-- E4, D7v, D10v. -/
theorem test_getTemp : after (exec .getTemp published) (fun t => (t.mem.tx.take 3, t.txLength)) = some ([0x01, 0x90, 0x3B], 3) := by
  decide +kernel
theorem test_getAirTempHumidity : after (exec .getAirTempHumidity published) (fun t => (t.mem.tx.take 5, t.txLength)) =
    some ([0x00, 0xFA, 0x01, 0xC2, 0x6F], 5) := by decide +kernel
theorem test_getDepth : after (exec .getDepth published) (fun t => (t.mem.tx.take 3, t.busState)) = some ([0x12, 0x34, 0x26], .readRequested) := by
  decide +kernel
/-- D19v. -/
theorem test_unrecognized : after (exec .unrecognized (writing [0x00])) (fun t => (t.error, t.busState)) = some (true, .idle) := by
  decide +kernel
/-- L2.1. -/
theorem test_accumulatePec : after (exec (.accumulatePec 0xFF 0x7F) State.reset) (fun t => t.result) = some (.byte 0x89) := by decide +kernel
theorem test_crcPec : after (exec (.crcPec [0x31, 0x32, 0x33, 0x34, 0x35, 0x36, 0x37, 0x38, 0x39]) State.reset) (fun t => t.result) =
    some (.byte 0xFB) := by decide +kernel
theorem test_appendPec : after (exec (.appendPec [0x00, 0xFA, 0x01, 0xC2, 0x00] 4) State.reset) (fun t => t.result) =
    some (.bytes [0x00, 0xFA, 0x01, 0xC2, 0x6F]) := by decide +kernel
theorem test_verifyPec : after (exec (.verifyPec [0xA1, 0x9E] 1) State.reset) (fun t => t.result) = some (.flag false) := by decide +kernel
theorem test_accumulateOw : after (exec (.accumulateOw 0x00 0xFE) State.reset) (fun t => t.result) = some (.byte 0x6B) := by decide +kernel
theorem test_crcOw : after (exec (.crcOw [0x31, 0x32, 0x33, 0x34, 0x35, 0x36, 0x37, 0x38, 0x39]) State.reset) (fun t => t.result) =
    some (.byte 0xA1) := by decide +kernel
theorem test_appendOw : after (exec (.appendOw [0x02, 0x1C, 0xB8, 0x01, 0x00, 0x00, 0x00, 0x00] 7) State.reset) (fun t => t.result) =
    some (.bytes [0x02, 0x1C, 0xB8, 0x01, 0x00, 0x00, 0x00, 0xA2]) := by decide +kernel
theorem test_verifyOw : after (exec (.verifyOw scratchSample 8) State.reset) (fun t => t.result) = some (.flag true) := by decide +kernel
theorem test_direct_mode_agrees : crc .direct .pec [0x12, 0x34] = 0x26 ∧ crc .direct .ow (scratchSample.take 8) = 0x33 := by decide +kernel
/-- O1, O2. -/
theorem test_owReset_present : after (exec .owReset { State.reset with line := [false] }) (fun t => (t.result, t.owDrive)) =
    some (.flag true, .released) := by decide +kernel
theorem test_owReset_absent : after (exec .owReset (driving .reset1 0 [true])) (fun t => (t.owSeq, t.owResult)) = some (.done, .sensorReadError) := by
  decide +kernel
/-- R175: the eighth bit of CONVERT_T leads to the poll. -/
theorem test_owWriteBit : after (exec (.owWriteBit false) (driving .convert 7 [])) (fun t => (t.owSeq, t.bitIndex, t.pollCount)) =
    some (.poll, 0, 0) := by decide +kernel
/-- O5; R179. -/
theorem test_owReadBit : after (exec .owReadBit { State.reset with line := [true] }) (fun t => t.result) = some (.bit true) := by decide +kernel
theorem test_owReadBit_poll : after (exec .owReadBit (driving .poll 0 [false])) (fun t => (t.owSeq, t.pollCount)) = some (.poll, 1) := by
  decide +kernel
/-- O9: the second slot of 0xBE carries 1. -/
theorem test_owWriteByte : after (exec (.owWriteByte 0xBE) State.reset) (fun t => (t.nextSlot, wireBit 0xBE 1)) =
    some (some (.write false), true) := by decide +kernel
theorem test_owReadByte : after (exec .owReadByte State.reset) (fun t => t.nextSlot) = some (some .read) := by decide +kernel
/-- O10: the last slot of the byte 0x90, its first seven samples assembled. -/
theorem test_owReadByte_last_slot :
    after (exec .owReadBit { State.reset with owCall := some .read, bitIndex := 7, owByte := 0x10, line := [true] })
      (fun t => (t.owByte, t.owCall)) = some (0x90, none) := by decide +kernel
theorem test_acquireTemperature : after (exec .acquireTemperature State.reset) (fun t => (t.owSeq, t.owResult, t.nextSlot)) =
    some (.reset1, .none, some .reset) := by decide +kernel
theorem test_acquireTemperature_twice : refusal (exec .acquireTemperature (driving .poll 0 [])) = some .acquisitionRunning := by decide +kernel
/-- O7, O8: bits of 0xCC and 0x44. -/
theorem test_skipRom : after (exec .skipRom { State.reset with bitIndex := 5 }) (fun t => (t.nextSlot, t.bitIndex)) =
    some (some (.write false), 0) := by decide +kernel
theorem test_convertT : after (exec .convertT State.reset) (fun t => t.owCall) = some (some (.write 0x44)) := by decide +kernel
theorem test_readScratchpad : after (exec .readScratchpad State.reset) (fun t => t.owCall) = some (some (.write 0xBE)) := by decide +kernel
/-- A1v: the last reset of the sequence gives the result. -/
theorem test_reset3_decodes : after (exec .owReset { driving .reset3 0 [true] with
      owOk := true, mem := { State.reset.mem with scratch := scratchSample } }) (fun t => t.owResult) =
    some (.ok { integerPart := 25, fractionalPart := 0, rawRegister := 0x0190 }) := by decide +kernel
/-- L2.6, its eighth row. -/
theorem test_decode_negative_is_unsigned : decodeScratch [0x90, 0xFC] = some { integerPart := 0xC9, fractionalPart := 0, rawRegister := 0xFC90 } := by
  decide +kernel
/-- H1, H2, H4, H6, H7, H8. -/
theorem test_qerr : after (exec .qerr { State.reset with error := true }) (fun t => t.result) = some (.flag true) := by decide +kernel
theorem test_clr : after (exec .clr { State.reset with error := true }) (fun t => t.error) = some false := by decide +kernel
theorem test_en : after (exec (.en false) State.reset) (fun t => t.enable) = some false := by decide +kernel
theorem test_pub : after (exec (.pub published.snapshot) State.reset) (fun t => t.snapshot.depth) = some 0x1234 := by decide +kernel
theorem test_chan : after (exec .chan State.reset) (fun t => t.result) = some (.bytes (List.replicate 8 0)) := by decide +kernel
theorem test_rst : after (exec .rst { published with error := true, busState := .readRequested })
    (fun t => (t.error, t.busState, t.snapshot, t.mem.bank)) = some (false, .idle, Snapshot.zero, List.replicate 8 0) := by decide +kernel
/-- R70: an address byte of the hardware layer. -/
theorem test_address : addressByte 0x48 true = 0x91 ∧
    addressEvent { Params.tc with slaveAddr := 0x48 } 0x90 = some .wr ∧ addressEvent Params.tc 0x91 = none := by decide +kernel
/-- The step runs a word posted at reset. -/
theorem test_step_runs_posted_word : after (step (State.reset.withFetchWord 8 0xCC)) (fun t => t.owCall) = some (some (.write 0xCC)) := by
  decide +kernel
theorem test_step_refuses_configuration :
    refusal (step { State.reset with params := { Params.tc with maxPayload := 3 } }) = some .configuration := by decide +kernel

/-! ### Witnesses: the hypotheses of each statement that has some are met together -/

/-- ShortBufferRefused, at the longest buffer it speaks of. -/
theorem witness_ShortBufferRefused : ([0x01, 0x90] : List Byte).length ≤ 2 ∧ Instr.appendPec [0x01, 0x90] 2 = Instr.appendPec [0x01, 0x90] 2 := by
  decide
/-- SingleByteCorruptionDetected, at a data byte and at the CRC byte (E2). -/
theorem witness_SingleByteCorruptionDetected : ([0x01, 0x90, 0x3B] : List Byte).length = 2 + 1 ∧
    verify .table .pec [0x01, 0x90, 0x3B] 2 = some true ∧ 1 ≤ 2 ∧ ([0x01, 0x90, 0x3B] : List Byte)[1]? ≠ some 0x91 ∧ 2 ≤ 2 ∧
    ([0x01, 0x90, 0x3B] : List Byte)[2]? ≠ some 0x3A := by decide +kernel
/-- ByteReceivedStoresOrOverflows: ignored, full, one below full. -/
theorem witness_ByteReceivedStoresOrOverflows : State.reset.Inv ∧ State.reset.busState ≠ .writeRequested ∧
    (writing (List.replicate 35 0)).Inv ∧ (writing (List.replicate 35 0)).busState = .writeRequested ∧
    (writing (List.replicate 35 0)).rxCount = (writing (List.replicate 35 0)).params.rxCap ∧
    (writing (List.replicate 34 0)).Inv ∧ (writing (List.replicate 34 0)).busState = .writeRequested ∧
    (writing (List.replicate 34 0)).rxCount < (writing (List.replicate 34 0)).params.rxCap := by
  repeat' apply And.intro
  all_goals first | exact inv_of_check (by decide +kernel) | decide +kernel
/-- AcceptDecidesByLengthAndPec: short, long, wrong byte, one too many. -/
theorem witness_AcceptDecidesByLengthAndPec :
    (writing [0xA1]).Inv ∧ (writing [0xA1]).rxCount = 1 ∧
    (writing [0xA1, 0x9D]).Inv ∧ (writing [0xA1, 0x9D]).rxCount = 1 + 1 ∧ verify .table .pec (writing [0xA1, 0x9D]).mem.rx 1 = some true ∧
    (writing [0xA1, 0x9E]).Inv ∧ (writing [0xA1, 0x9E]).rxCount = 1 + 1 ∧ verify .table .pec (writing [0xA1, 0x9E]).mem.rx 1 = some false ∧
    (writing [0xA1, 0, 0]).Inv ∧ (writing [0xA1, 0, 0]).rxCount ≠ 1 ∧ (writing [0xA1, 0, 0]).rxCount ≠ 1 + 1 := by
  repeat' apply And.intro
  all_goals first | exact inv_of_check (by decide +kernel) | decide +kernel
/-- WriteCompleteRunsAcceptedCommand, the short form of GET_TEMP and the long one. -/
theorem witness_WriteCompleteRunsAcceptedCommand :
    (writing [0xA1]).Inv ∧ (writing [0xA1]).busState = .writeRequested ∧ (writing [0xA1]).mem.peek .rx 0 = some 0xA1 ∧
    commandOf Params.tc 0xA1 = some .getTemp ∧ (writing [0xA1]).acceptance (expectedLength Params.tc .getTemp) = some .acceptedShort ∧
    (writing [0xA1, 0x9D]).Inv ∧ (writing [0xA1, 0x9D]).busState = .writeRequested ∧ (writing [0xA1, 0x9D]).mem.peek .rx 0 = some 0xA1 ∧
    (writing [0xA1, 0x9D]).acceptance (expectedLength Params.tc .getTemp) = some .acceptedLong := by
  repeat' apply And.intro
  all_goals first | exact inv_of_check (by decide +kernel) | decide +kernel
/-- WriteCompleteRejects: outside a write, an empty message, an unknown byte, a wrong length, a wrong integrity byte, a short SETCHANNELS. -/
theorem witness_WriteCompleteRejects :
    State.reset.Inv ∧ State.reset.busState ≠ .writeRequested ∧ (writing []).Inv ∧ (writing []).busState = .writeRequested ∧
    (writing []).rxCount = 0 ∧ (writing [0xA4]).Inv ∧ (writing [0xA4]).mem.peek .rx 0 = some 0xA4 ∧ commandOf Params.tc 0xA4 = none ∧
    (writing [0xA1, 0, 0]).Inv ∧ (writing [0xA1, 0, 0]).acceptance (expectedLength Params.tc .getTemp) = some (.rejected .protocolLength) ∧
    (writing [0xA1, 0x9E]).Inv ∧ (writing [0xA1, 0x9E]).acceptance (expectedLength Params.tc .getTemp) = some (.rejected .integrity) ∧
    (writing [0xA0, 1, 2, 3, 4, 5, 6, 7, 8]).Inv ∧ (writing [0xA0, 1, 2, 3, 4, 5, 6, 7, 8]).mem.peek .rx 0 = some 0xA0 ∧
    commandOf Params.tc 0xA0 = some .setChannels ∧
    (writing [0xA0, 1, 2, 3, 4, 5, 6, 7, 8]).acceptance (expectedLength Params.tc .setChannels) = some .acceptedShort := by
  repeat' apply And.intro
  all_goals first | exact inv_of_check (by decide +kernel) | decide +kernel
/-- ReadRequestedEmitsOrFails: the last byte, one past it, outside a read. -/
theorem witness_ReadRequestedEmitsOrFails :
    (reading [1, 2, 3] 2).Inv ∧ (reading [1, 2, 3] 2).busState = .readRequested ∧ (reading [1, 2, 3] 2).txCount < (reading [1, 2, 3] 2).txLength ∧
    (reading [1, 2, 3] 3).Inv ∧ (reading [1, 2, 3] 3).busState = .readRequested ∧ (reading [1, 2, 3] 3).txCount = (reading [1, 2, 3] 3).txLength ∧
    State.reset.Inv ∧ State.reset.busState ≠ .readRequested := by
  repeat' apply And.intro
  all_goals first | exact inv_of_check (by decide +kernel) | decide +kernel
/-- CommandByteSelectsOneCommand; also the premise of ResetMeetsInvariant and of the step statements. -/
theorem witness_admitted : Params.tc.admitted = true ∧ ({ Params.tc with maxPayload := 7 } : Params).admitted = true := by decide +kernel
/-- ResponsesArePrepared, each of its three rows. -/
theorem witness_ResponsesArePrepared : published.Inv ∧
    [published.snapshot.temperature.rawRegister.extractLsb' 8 8, published.snapshot.temperature.rawRegister.extractLsb' 0 8] = [0x01, 0x90] ∧
    [published.snapshot.humidity.temperature.extractLsb' 8 8, published.snapshot.humidity.temperature.extractLsb' 0 8,
      published.snapshot.humidity.humidity.extractLsb' 8 8, published.snapshot.humidity.humidity.extractLsb' 0 8] = [0x00, 0xFA, 0x01, 0xC2] ∧
    [published.snapshot.depth.extractLsb' 8 8, published.snapshot.depth.extractLsb' 0 8] = [0x12, 0x34] := by
  refine ⟨inv_of_check ?_, ?_⟩ <;> decide +kernel
/-- SetChannelsAppliesAllOrNothing: a right and a wrong integrity byte (E5). -/
theorem witness_SetChannelsAppliesAllOrNothing :
    (writing [0xA0, 0x10, 0x20, 0x30, 0x40, 0x50, 0x60, 0x70, 0x80, 0xDF]).Inv ∧ (writing [0xA0, 0x10, 0x20, 0x30, 0x40, 0x50, 0x60, 0x70, 0x80, 0xDF]).rxCount = 8 + 2 ∧
    verify .table .pec (writing [0xA0, 0x10, 0x20, 0x30, 0x40, 0x50, 0x60, 0x70, 0x80, 0xDF]).mem.rx (1 + 8) = some true ∧
    (writing [0xA0, 0x11, 0x20, 0x30, 0x40, 0x50, 0x60, 0x70, 0x80, 0xDF]).Inv ∧ (writing [0xA0, 0x11, 0x20, 0x30, 0x40, 0x50, 0x60, 0x70, 0x80, 0xDF]).rxCount = 8 + 2 ∧
    verify .table .pec (writing [0xA0, 0x11, 0x20, 0x30, 0x40, 0x50, 0x60, 0x70, 0x80, 0xDF]).mem.rx (1 + 8) = some false := by
  repeat' apply And.intro
  all_goals first | exact inv_of_check (by decide +kernel) | decide +kernel
/-- UnrecognizedCommandFails: nothing received, as right after reset, and one byte less and one more than the long form has. -/
theorem witness_UnrecognizedCommandFails : State.reset.rxCount ≠ State.reset.params.channels + 2 ∧
    (writing (List.replicate 9 0)).rxCount ≠ State.reset.params.channels + 2 ∧
    (writing (List.replicate 11 0)).rxCount ≠ State.reset.params.channels + 2 := by decide +kernel
/-- GetTransactionAnswersSnapshot, both forms of GET_TEMP. -/
theorem witness_GetTransactionAnswersSnapshot : published.Inv ∧ published.busState = .idle ∧ published.enable = true ∧
    Command.getTemp ≠ .setChannels ∧ ([0xA1] : List Byte) = [opcodeOf Params.tc .getTemp] ∧
    ([0xA1, 0x9D] : List Byte) = [opcodeOf Params.tc .getTemp, crc .table .pec [opcodeOf Params.tc .getTemp]] := by
  refine ⟨inv_of_check ?_, ?_⟩ <;> decide +kernel
/-- SetChannelsMessageNeedsItsPec, a right and a wrong byte. -/
theorem witness_SetChannelsMessageNeedsItsPec : State.reset.Inv ∧ State.reset.busState = .idle ∧ State.reset.enable = true ∧
    ([0x10, 0x20, 0x30, 0x40, 0x50, 0x60, 0x70, 0x80] : List Byte).length = State.reset.params.channels ∧
    (0xDF : Byte) = crc .table .pec (0xA0 :: [0x10, 0x20, 0x30, 0x40, 0x50, 0x60, 0x70, 0x80]) ∧
    (0x00 : Byte) ≠ crc .table .pec (0xA0 :: [0x10, 0x20, 0x30, 0x40, 0x50, 0x60, 0x70, 0x80]) := by
  refine ⟨inv_of_check ?_, ?_⟩ <;> decide +kernel
/-- UnknownMessageFails, at the longest message that fits. -/
theorem witness_UnknownMessageFails : State.reset.Inv ∧ State.reset.busState = .idle ∧ State.reset.enable = true ∧
    commandOf State.reset.params 0x00 = none ∧ (List.replicate 34 (0x00 : Byte)).length + 1 ≤ State.reset.params.rxCap := by
  refine ⟨inv_of_check ?_, ?_⟩ <;> decide +kernel
/-- OverflowDiscardsMessage, at the shortest message that does not fit. -/
theorem witness_OverflowDiscardsMessage : State.reset.Inv ∧ State.reset.busState = .idle ∧ State.reset.enable = true ∧
    State.reset.params.rxCap < (List.replicate 36 (0x00 : Byte)).length := by
  refine ⟨inv_of_check ?_, ?_⟩ <;> decide +kernel
theorem witness_ResponsesIgnoreErrorFlag : Command.getTemp ≠ .setChannels ∧ Command.getAirTempHumidity ≠ .setChannels ∧
    Command.getDepth ≠ .setChannels := by decide
/-- SlotsDriveAndSampleTheLine: at rest, at another slot of the sequence, and at the end of the scratchpad's last byte and one bit before. -/
theorem witness_SlotsDriveAndSampleTheLine : State.reset.Inv ∧ State.reset.nextSlot = none ∧ (driving .poll 0 [true]).Inv ∧
    (driving .poll 0 [true]).nextSlot ≠ some .reset ∧ (driving .poll 0 [true]).nextSlot ≠ some (.write true) ∧
    (driving .reset2 0 [true]).Inv ∧ (driving .reset2 0 [true]).nextSlot ≠ some .read ∧
    ({ driving .readSp 7 [true] with byteIndex := 8 } : State).Inv ∧ (driving .readSp 7 [true]).owSeq = .readSp ∧
    (driving .readSp 7 [true]).bitIndex = 7 ∧ (driving .readSp 6 [true]).bitIndex ≠ 7 := by
  repeat' apply And.intro
  all_goals first | exact inv_of_check (by decide +kernel) | decide +kernel
/-- SlotWaveformsLastTheirSlotTimes: the nominal waits are in order. -/
theorem witness_SlotWaveforms : Timing.nominal.tRstl + Timing.nominal.tPds ≤ Timing.nominal.tRstSlot ∧
    Timing.nominal.tW1l ≤ Timing.nominal.tSlot := by decide
/-- SlotsFollowTheSequence: a slot is due at each of the nine positions, at its first and its last bit, and at the scratchpad's last. -/
theorem witness_SlotsFollowTheSequence : (driving .readSp 7 []).Inv ∧ (driving .readSp 7 []).params.pollLimit = none ∧
    (driving .reset1 0 []).nextSlot = some .reset ∧ (driving .skip1 0 []).nextSlot = some (.write false) ∧
    (driving .skip1 7 []).nextSlot = some (.write true) ∧ (driving .convert 7 []).nextSlot = some (.write false) ∧
    (driving .poll 0 []).nextSlot = some .read ∧ (driving .reset2 0 []).nextSlot = some .reset ∧
    (driving .skip2 7 []).nextSlot = some (.write true) ∧ (driving .readCmd 7 []).nextSlot = some (.write true) ∧
    (driving .readSp 7 []).nextSlot = some .read ∧ ({ driving .readSp 7 [] with byteIndex := 8 } : State).nextSlot = some .read ∧
    invCheck { driving .readSp 7 [] with byteIndex := 8 } = true ∧
    (driving .reset1 0 [false]).sensorAnswer = false ∧ (driving .reset3 0 []).nextSlot = some .reset := by
  refine ⟨inv_of_check ?_, ?_⟩ <;> decide +kernel
/-- WriteByteSendsLeastSignificantBitFirst and FunctionCodesSendTheirBytes, from OW_IDLE and from OW_DONE. -/
theorem witness_driver_at_rest : State.reset.driverBusy = false ∧ (driving .done 3 []).driverBusy = false ∧ 7 < 8 := by decide +kernel
/-- ReadByteAssemblesLeastSignificantBitFirst (O10). -/
theorem witness_ReadByte : (driving .idle 0 [false, false, false, false, true, false, false, true]).driverBusy = false ∧
    [false, false, false, false, true, false, false, true].length = 8 ∧
    (driving .idle 0 [false, false, false, false, true, false, false, true]).line =
      [false, false, false, false, true, false, false, true] ++ [] := by decide +kernel
/-- AcquisitionStartsOnlyAtRest, its first clause. -/
theorem witness_AcquisitionStarts : State.reset.owSeq = .idle ∧ (driving .done 0 []).owSeq = .done := by decide +kernel
/-- AcquisitionStartsOnlyAtRest, its other two: inside an acquisition, and inside a byte call. -/
theorem witness_BusyDriver : (driving .poll 0 []).owSeq ≠ .idle ∧ (driving .poll 0 []).owSeq ≠ .done ∧
    ({ State.reset with owCall := some .read } : State).driverBusy = true := by decide +kernel
/-- AbsentSensorEndsAcquisition (A2v). -/
theorem witness_AbsentSensor : (driving .idle 0 [true]).owSeq = .idle ∧ (driving .idle 0 [true]).line = true :: [] := by decide +kernel
/-- PollWaitsForTheFirstOne (A1v): two zeros, then the one. -/
theorem witness_PollWaits : (driving .poll 0 [false, false, true]).owSeq = .poll ∧
    (driving .poll 0 [false, false, true]).params.pollLimit = none ∧
    (driving .poll 0 [false, false, true]).line = List.replicate 2 false ++ [true] := by decide +kernel
/-- AcquisitionRunsToItsResult (A1v, A3v): a scratchpad that passes and one that fails. -/
theorem witness_AcquisitionRunsToItsResult :
    (driving .idle 0 (false :: (List.replicate 2 false ++ true :: false :: (wireBits scratchSample ++ true :: [])))).Inv ∧
    (driving .idle 0 (false :: (List.replicate 2 false ++ true :: false :: (wireBits scratchSample ++ true :: [])))).acquiring = false ∧
    State.reset.params.pollLimit = none ∧ scratchSample.length = 9 ∧ verify .table .ow scratchSample 8 = some true ∧
    verify .table .ow (0x91 :: scratchSample.tail) 8 = some false := by
  refine ⟨inv_of_check ?_, ?_⟩ <;> decide +kernel
/-- PollLimitVariantEnds (A7v). -/
theorem witness_PollLimitVariant : limited.Inv ∧ limited.acquiring = false ∧ limited.params.pollLimit = some 3 ∧
    ({ limited with line := [false, false, false, false, true] } : State).line = false :: (List.replicate 3 false ++ true :: []) := by
  refine ⟨inv_of_check ?_, ?_⟩ <;> decide +kernel
/-- SamplingDutyKeepsStaleValues: each of its two results. -/
theorem witness_SamplingDuty :
    ({ State.reset with owResult := .ok { integerPart := 25, fractionalPart := 0, rawRegister := 0x0190 } } : State).owResult =
      .ok { integerPart := 25, fractionalPart := 0, rawRegister := 0x0190 } ∧
    ({ State.reset with owResult := .sensorReadError } : State).owResult = .sensorReadError := by decide +kernel
/-- RefusedConfigurations: each of its clauses, MAX_PAYLOAD at both ends of its range for eight channels. -/
theorem witness_RefusedConfigurations : (build .disabled .eight .eight).integrity = .disabled ∧
    (build .table .six .eight).lengthChannels ≠ (build .table .six .eight).bankChannels ∧
    (build .table .eight .eight).accepted = .ok Params.tc ∧ (build .table .eight .eight).integrity = .table ∧
    (build .table .eight .eight).lengthChannels = (build .table .eight .eight).bankChannels ∧
    Params.tc.opcodesDistinct = true ∧ 4 ≤ 7 ∧ (build .table .eight .eight).bankChannels.count - 1 = 7 ∧ Params.tc.maxPayload = 32 ∧
    Params.tc.pollLimit ≠ some 0 ∧ ({ Params.tc with maxPayload := 6 } : Params).admitted = false ∧
    ({ State.reset with params := { Params.tc with maxPayload := 33 } } : State).params.admitted = false := by decide +kernel
/-- StepRunsPostedOperation, on the two schedules it speaks of, and on posted bytes that are no operation. -/
theorem witness_StepRunsPostedOperation : State.reset.params.admitted = true ∧
    decode ({ State.reset with inbox := [0x60, 0x61, 0xA1], turns := [.posted] } : State).inbox = .ok (.wr, [0x61, 0xA1]) ∧
    ({ State.reset with inbox := [0x60, 0x61, 0xA1], turns := [.posted] } : State).turns = .posted :: [] ∧
    ({ State.reset with inbox := [0x60, 0x61, 0xA1] } : State).turns = [] ∧
    decode ({ State.reset with inbox := [0x0F] } : State).inbox = .error (.unknownKind 0x0F) := by
  refine ⟨?_, rfl, rfl, rfl, rfl⟩
  decide +kernel
/-- StepRunsDueSlot, on the five schedules it speaks of. -/
theorem witness_StepRunsDueSlot : (driving .reset1 0 []).params.admitted = true ∧ (driving .reset1 0 []).nextSlot = some .reset ∧
    ({ driving .reset1 0 [] with turns := [.slot] } : State).turns = .slot :: [] ∧ (driving .reset1 0 []).turns = [] ∧
    (driving .reset1 0 []).inbox = [] ∧ State.reset.nextSlot = none ∧ State.reset.turns = [] ∧ State.reset.inbox = [] ∧
    ({ State.reset with turns := [.slot] } : State).nextSlot = none ∧ ({ State.reset with turns := [.posted] } : State).inbox = [] := by
  decide +kernel
/-- RunsCanGoOnForever: an acquisition whose poll reads 0 forever (A6v), as an infinite run and as an interleaving of the MainLoop's steps. -/
theorem witness_RunsCanGoOnForever_poll : (polls 0).Inv ∧ (polls 0).inbox = [] ∧ (polls 0).turns = [] ∧ (polls 0).owSeq = .poll ∧
    (polls 0).params.pollLimit = none ∧ (polls 0).line = [] ∧ (AgentStep.slot [false]).supply.posted = [] ∧
    (∀ n, (AgentStep.slot [false]).outcome (polls n) = .next (polls (n + 1))) ∧
    InfiniteRun (fun _ => (AgentStep.slot [false]).supply) polls ∧
    ∀ n u, fetch ((polls n).supplied (AgentStep.slot [false]).supply) ≠ .run .rst u :=
  ⟨inv_of_check (by decide +kernel), rfl, rfl, rfl, rfl, rfl, rfl, fun _ => rfl, fun _ => rfl, fun _ _ h => nomatch h⟩
/-- RunsCanGoOnForever, its second clause: an operation posted again and again. -/
theorem witness_RunsCanGoOnForever_operation : Instr.qerr.wellFormed = true ∧ State.reset.params.admitted = true ∧
    ∀ _ : Nat, (AgentStep.operation .qerr).outcome (State.reset.answer (.flag false)) = .next (State.reset.answer (.flag false)) :=
  ⟨rfl, by decide +kernel, fun _ => rfl⟩
/-- A finite run and its end state (R272): one zero, then the one. -/
theorem test_end_state : after (runSupplied [(AgentStep.slot [false]).supply, (AgentStep.slot [true]).supply] (polls 0))
    (fun t => (t.owSeq, t.pollCount, t.acquisitionEnded)) = some (.reset2, 1, false) := by decide +kernel
/-- StepKeepsInvariant and StepFormsNoIndexOutOfRange: a state with the invariant that steps. -/
theorem witness_StepKeepsInvariant : State.reset.Inv ∧ step State.reset = .next State.reset ∧
    after (exec .rd { reading [1, 2, 3] 3 with error := true }) (fun t => t.error) = some true :=
  ⟨inv_of_check (by decide +kernel), rfl, by decide +kernel⟩
/-- BusStateHasItsWriters, ErrorFlagHasItsWriters and SharedElementsHaveOneWriter: each element does change somewhere. -/
theorem witness_writers : after (exec .wr State.reset) (fun t => decide (t.busState ≠ State.reset.busState)) = some true ∧
    after (exec .clr { State.reset with error := true }) (fun t => t.error) = some false ∧
    after (exec .unrecognized State.reset) (fun t => t.error) = some true ∧
    after (exec (.setChannels .long) (writing [0xA0, 0x10, 0x20, 0x30, 0x40, 0x50, 0x60, 0x70, 0x80, 0xDF]))
      (fun t => decide (t.mem.bank ≠ State.reset.mem.bank)) = some true ∧
    after (exec (.pub published.snapshot) State.reset) (fun t => decide (t.snapshot ≠ State.reset.snapshot)) = some true ∧
    after (exec (.en false) State.reset) (fun t => decide (t.enable ≠ State.reset.enable)) = some true := by decide +kernel
/-- StickyErrorSurvivesRuns: a run of several operations, none of them CLR or RST, with `error` set. -/
theorem witness_StickyError : ({ State.reset with error := true } : State).error = true ∧
    (∀ i ∈ [Instr.wr, .rx 0xA1, .wc, .rd, .sp], i ≠ Instr.clr ∧ i ≠ Instr.rst) ∧
    after (runOps [.wr, .rx 0xA1, .wc, .rd, .sp] { State.reset with error := true }) (fun t => t.error) = some true := by decide +kernel
/-- WriteReadRequestedUnreachable: a state reached from reset by one step. -/
theorem witness_Reaches : State.reset.busState = (State.resetWith Params.tc).busState ∧ Reaches State.reset State.reset ∧
    State.reset.busState ≠ .writeReadRequested ∧ after (exec .wr State.reset) (fun t => t.busState) = some .writeRequested :=
  ⟨rfl, .tail (.refl _) rfl, by decide +kernel, by decide +kernel⟩
/-- BusHandlersLeaveTheDriver and DriverLeavesTheBus: an operation of each kind answers. -/
theorem witness_frames : (after (exec (.accept 1) State.reset) (fun t => t.result)).isSome = true ∧
    (after (exec .owReset (driving .reset1 0 [false])) (fun t => t.owSeq)).isSome = true := by decide +kernel
/-- DecodeReadsBackEncode and EncodeRebuildsDecoded: the longest form is read back. -/
theorem witness_encoding : Instr.wellFormed (.appendOw [0x01, 0x00] 1) = true ∧
    decode [0x2A, 0x01, 0x02, 0x01, 0x00, 0x64] = .ok (.appendOw [0x01, 0x00] 1, [0x64]) := ⟨by decide, rfl⟩

end Sys2Proof.Tests
end

/-! # What an operation can do, and runs without end

First the facts a run needs: the decoder reads back what the environment posts, and every operation that answers has done one of five
things. Then the statements about configurations, the step, the reset state and infinite runs. -/

/-! ### The decoder reads back the encoder (log 1) -/

namespace Sys2Proof

theorem takeFlag_flagByte (kind : Byte) (v : Bool) (rest : List Byte) (k : Bool → List Byte → Decoded) :
    takeFlag kind (flagByte v :: rest) k = k v rest := by
  cases v <;> rfl

theorem takeBuffer_bufferBytes {buf : List Byte} {len : Nat} (hs : lengthFits buf.length = true) (hb : bufferFits buf len = true)
    (kind : Byte) (rest : List Byte) (mk : List Byte → Nat → Instr) :
    takeBuffer kind (bufferBytes buf len ++ rest) mk = .ok (mk buf len, rest) := by
  have hsize : buf.length < 256 := of_decide_eq_true hs
  have hlen : len < buf.length := of_decide_eq_true hb
  simp only [takeBuffer, bufferBytes, List.cons_append, takeByte, takeBytes_encoded hsize,
    lengthByte_toNat (Nat.lt_trans hlen hsize), hb, if_true]

theorem takeSnapshot_snapshotBytes (snap : Snapshot) (rest : List Byte) (k : Snapshot → List Byte → Decoded) :
    takeSnapshot (snapshotBytes snap ++ rest) k = k snap rest := by
  simp only [takeSnapshot, snapshotBytes, List.cons_append, List.append_assoc, takeByte, takeHalf_halfBytes]

/-- The operand bytes of a well-formed operation are read back whole. -/
theorem decodeOperands_operandBytes {i : Instr} (hw : i.wellFormed = true) (rest : List Byte) :
    decodeOperands (kindByte i) (operandBytes i ++ rest) = .ok (i, rest) := by
  cases i with
  | accept expected =>
    show Except.ok (Instr.accept (lengthByte expected).toNat, rest) = _
    rw [lengthByte_toNat (of_decide_eq_true hw)]
  | setChannels form => cases form <;> rfl
  | crcPec bytes => exact takeBytes_encoded (of_decide_eq_true hw) rest fun bs rest => .ok (.crcPec bs, rest)
  | crcOw bytes => exact takeBytes_encoded (of_decide_eq_true hw) rest fun bs rest => .ok (.crcOw bs, rest)
  | appendPec buf len | verifyPec buf len | appendOw buf len | verifyOw buf len =>
    obtain ⟨hs, hb⟩ := Bool.and_eq_true_iff.1 hw
    exact takeBuffer_bufferBytes hs hb _ rest _
  | owWriteBit b => exact takeFlag_flagByte _ b rest fun b rest => .ok (.owWriteBit b, rest)
  | en v => exact takeFlag_flagByte _ v rest fun v rest => .ok (.en v, rest)
  | pub snap => exact takeSnapshot_snapshotBytes snap rest fun snap rest => .ok (.pub snap, rest)
  | _ => rfl

/-- The environment's single posting is the next operation of an empty stream. -/
theorem decode_encode_wellFormed {i : Instr} (hw : i.wellFormed = true) (rest : List Byte) :
    decode (encode i ++ rest) = .ok (i, rest) :=
  (decode_encode i rest).trans (decodeOperands_operandBytes hw rest)

end Sys2Proof

namespace Sys2Proof.Machine

/-! ### What the operations that are no one-wire operation leave unchanged -/

/-- What an operation of the bus, the dispatcher, the codec or the host leaves as it was: the configuration, what the environment has posted,
scheduled and answered, the driver and its scratchpad (R238). -/
structure BusFrame (s t : State) : Prop where
  params : t.params = s.params
  inbox : t.inbox = s.inbox
  turns : t.turns = s.turns
  line : t.line = s.line
  driver : SameDriver s t
  scratch : t.mem.scratch = s.mem.scratch

theorem SameDriver.trans {s t u : State} (h : SameDriver s t) (h' : SameDriver t u) : SameDriver s u :=
  ⟨h'.1.trans h.1, h'.2.trans h.2, h'.3.trans h.3, h'.4.trans h.4, h'.5.trans h.5, h'.6.trans h.6, h'.7.trans h.7, h'.8.trans h.8,
    h'.9.trans h.9⟩

theorem BusFrame.trans {s t u : State} (h : BusFrame s t) (h' : BusFrame t u) : BusFrame s u :=
  ⟨h'.params.trans h.params, h'.inbox.trans h.inbox, h'.turns.trans h.turns, h'.line.trans h.line, h.driver.trans h'.driver,
    h'.scratch.trans h.scratch⟩

/-- New values of the bus engine's elements, the snapshot, the answer and the index spaces but scratch. -/
theorem BusFrame.changed {s : State} {q : BusState} {m : Memory} {rx len sent : Nat} {en err : Bool} {snap : Snapshot} {a : Answer}
    {d : Nat} (hm : m.scratch = s.mem.scratch) :
    BusFrame s { s with
      busState := q, mem := m, rxCount := rx, txLength := len, txCount := sent, enable := en, error := err, snapshot := snap,
      result := a, draws := d } where
  params := rfl
  inbox := rfl
  turns := rfl
  line := rfl
  driver := by constructor <;> rfl
  scratch := hm

theorem BusFrame.refl (s : State) : BusFrame s s := .changed rfl

theorem State.answer_frame (s : State) (a : Answer) : BusFrame s (s.answer a) := .changed rfl

theorem State.fail_frame (s : State) (k : ErrorKind) : BusFrame s (s.fail k) := .changed rfl

/-- A write to any space but scratch keeps the scratchpad. -/
theorem Memory.write_scratch {m m' : Memory} {sp : Space} {start : Nat} {bs : List Byte} (h : m.write sp start bs = some m')
    (hne : .scratch ≠ sp) : m'.scratch = m.scratch :=
  Memory.write_space_other h hne

theorem State.startMessage_frame (s : State) : BusFrame s s.startMessage := by
  unfold State.startMessage
  split
  · exact .changed rfl
  · exact .refl s

theorem State.receive_frame {s t : State} {b : Byte} (h : s.receive b = some t) : BusFrame s t := by
  obtain rfl | rfl | ⟨_, m, hm, rfl⟩ := State.receive_cases h
  · exact .refl _
  · exact s.fail_frame _
  · exact .changed (Memory.write_scratch hm (by decide))

theorem State.emitByte_frame {s t : State} (h : s.emitByte = some t) : BusFrame s t := by
  obtain ⟨_, _, _, _, rfl⟩ | ⟨_, rfl⟩ := State.emitByte_cases h
  · exact .changed rfl
  · exact .changed rfl

theorem State.respond_frame {s t : State} {payload : List Byte} (h : s.respond payload = some t) : BusFrame s t := by
  obtain ⟨m, hm, rfl⟩ := State.respond_cases h
  exact .changed (Memory.write_scratch hm (by decide))

theorem State.applyChannels_frame {s t : State} {form : Form} (h : s.applyChannels form = some t) : BusFrame s t := by
  obtain ⟨k, rfl⟩ | ⟨_, _, _, _, m, _, hm, rfl⟩ := State.applyChannels_cases h
  · exact s.fail_frame k
  · exact .changed (Memory.write_scratch hm (by decide))

theorem State.dispatch_frame {s t : State} {c : Command} {form : Form} (h : s.dispatch c form = some t) : BusFrame s t := by
  cases c with
  | setChannels => exact State.applyChannels_frame h
  | getTemp | getAirTempHumidity | getDepth => exact State.respond_frame h

theorem State.completeMessage_frame {s t : State} (h : s.completeMessage = some t) : BusFrame s t := by
  obtain ⟨k, rfl⟩ | ⟨_, _, _, _, _, hd⟩ := State.completeMessage_cases h
  · exact s.fail_frame k
  · exact State.dispatch_frame hd

/-- A meaning that always answers. -/
theorem BusFrame.of_next {s t u : State} (hf : BusFrame s u) (h : (.next u : Result) = .next t) : BusFrame s t := by
  cases h
  exact hf

/-- A meaning that is a shared operation on the state with its answer cleared. -/
theorem BusFrame.of_finish {s t : State} {a : Answer} {o : Option State} (hf : ∀ {t}, o = some t → BusFrame (s.answer a) t)
    (h : finish o = .next t) : BusFrame s t :=
  (s.answer_frame a).trans (hf (finish_eq_next.1 h))

theorem execWc_frame {s t : State} (h : execWc s = .next t) : BusFrame s t := by
  unfold execWc at h
  split at h
  · exact .of_next (s.answer_frame _) h
  · exact .of_finish State.completeMessage_frame h

theorem execAccept_frame {s t : State} {expected : Nat} (h : execAccept expected s = .next t) : BusFrame s t := by
  obtain ⟨v, _, rfl⟩ := Option.map_eq_some_iff.1 (finish_eq_next.1 h)
  exact s.answer_frame _

theorem answerAppend_frame {s t : State} {v : Variant} {buf : List Byte} {len : Nat} (h : answerAppend v buf len s = .next t) :
    BusFrame s t := by
  unfold answerAppend at h
  split at h
  · exact .of_next (s.answer_frame _) h
  · cases h

theorem answerVerify_frame {s t : State} {v : Variant} {buf : List Byte} {len : Nat} (h : answerVerify v buf len s = .next t) :
    BusFrame s t := by
  unfold answerVerify at h
  split at h
  · exact .of_next (s.answer_frame _) h
  · cases h

/-! ### What an operation can do -/

/-- What an operation `i` that takes `s` to `t` has done: it kept the driver, or ran a slot, or started a byte operation or an acquisition, or
it was Reset. -/
inductive Executed (i : Instr) (s t : State) : Prop where
  | bus (h : BusFrame s t)
  | slot (slot : Slot) (hi : i = slot.instr) (h : s.slot slot = some t)
  | byteCall (c : ByteCall)
      (hi : i = .owReadByte ∨ (∃ v, i = .owWriteByte v) ∨ i = .skipRom ∨ i = .convertT ∨ i = .readScratchpad)
      (h : s.callByte c = .next t)
  | acquisition (hi : i = .acquireTemperature) (ha : s.acquiring = false) (ht : t = (s.answer .none).startAcquisition)
  | reset (hi : i = .rst) (ht : t = s.resetAction)

theorem execAcquireTemperature_cases {s t : State} (h : execAcquireTemperature s = .next t) :
    s.acquiring = false ∧ t = (s.answer .none).startAcquisition := by
  unfold execAcquireTemperature at h
  split at h
  · cases h
  · rename_i ha
    cases h
    exact ⟨Bool.eq_false_iff.2 ha, rfl⟩

theorem exec_executed {i : Instr} {s t : State} (h : exec i s = .next t) : Executed i s t := by
  cases i with
  | wr => exact .bus (.of_next ((s.answer_frame _).trans (State.startMessage_frame _)) h)
  | rx b => exact .bus (.of_finish State.receive_frame h)
  | wc => exact .bus (execWc_frame h)
  | rd => exact .bus (State.emitByte_frame (finish_eq_next.1 h))
  | sp => exact .bus (.of_next (.changed rfl) h)
  | accept expected => exact .bus (execAccept_frame h)
  | setChannels form => exact .bus (.of_finish State.applyChannels_frame h)
  | getTemp | getAirTempHumidity | getDepth => exact .bus (.of_finish State.respond_frame h)
  | unrecognized => exact .bus (.of_next ((s.answer_frame _).trans (State.fail_frame _ _)) h)
  | accumulatePec | crcPec | accumulateOw | crcOw => exact .bus (.of_next (s.answer_frame _) h)
  | appendPec | appendOw => exact .bus (answerAppend_frame h)
  | verifyPec | verifyOw => exact .bus (answerVerify_frame h)
  | owReset => exact .slot .reset rfl (finish_eq_next.1 h)
  | owWriteBit b => exact .slot (.write b) rfl (finish_eq_next.1 h)
  | owReadBit => exact .slot .read rfl (finish_eq_next.1 h)
  | owReadByte => exact .byteCall .read (.inl rfl) h
  | owWriteByte v => exact .byteCall (.write v) (.inr (.inl ⟨v, rfl⟩)) h
  | skipRom => exact .byteCall _ (.inr (.inr (.inl rfl))) h
  | convertT => exact .byteCall _ (.inr (.inr (.inr (.inl rfl)))) h
  | readScratchpad => exact .byteCall _ (.inr (.inr (.inr (.inr rfl)))) h
  | acquireTemperature =>
    obtain ⟨ha, ht⟩ := execAcquireTemperature_cases h
    exact .acquisition rfl ha ht
  | qerr | chan => exact .bus (.of_next (s.answer_frame _) h)
  | clr | en | pub => exact .bus (.of_next (.changed rfl) h)
  | rst => cases h; exact .reset rfl rfl

/-- No operation touches the configuration (R260), or what the environment has posted and scheduled (log 22). -/
theorem exec_keeps_environment {i : Instr} {s t : State} (h : exec i s = .next t) :
    t.params = s.params ∧ t.inbox = s.inbox ∧ t.turns = s.turns := by
  cases exec_executed h with
  | bus hf => exact ⟨hf.params, hf.inbox, hf.turns⟩
  | slot slot _ hs =>
    have hf := State.slot_frame hs
    exact ⟨hf.params, hf.inbox, hf.turns⟩
  | byteCall c _ hc =>
    obtain ⟨_, rfl⟩ := State.callByte_cases hc
    exact ⟨rfl, rfl, rfl⟩
  | acquisition _ _ ht => subst ht; exact ⟨rfl, rfl, rfl⟩
  | reset _ ht => subst ht; exact ⟨rfl, rfl, rfl⟩

end Sys2Proof.Machine

/-! ### Which operation a step runs (log 2) -/

namespace Sys2Proof.Machine

theorem step_of_fetch_run {s u : State} {i : Instr} (ha : s.params.admitted = true) (h : fetch s = .run i u) : step s = exec i u := by
  rw [step, if_pos ha, h]

theorem step_of_fetch_wait {s u : State} (ha : s.params.admitted = true) (h : fetch s = .wait u) : step s = .next u := by
  rw [step, if_pos ha, h]

theorem step_of_fetch_bad {s : State} {e : DecodeError} (ha : s.params.admitted = true) (h : fetch s = .bad e) :
    step s = .refused (.undecodable e) := by
  rw [step, if_pos ha, h]

theorem step_of_not_admitted {s : State} (ha : s.params.admitted = false) : step s = .refused .configuration :=
  if_neg (Bool.eq_false_iff.1 ha)

theorem fetch_posted_turn {s : State} {ts : List Turn} (h : s.turns = .posted :: ts) : fetch s = fetchPosted { s with turns := ts } := by
  rw [fetch, h]

theorem fetch_slot_turn {s : State} {ts : List Turn} (h : s.turns = .slot :: ts) : fetch s = fetchSlot { s with turns := ts } := by
  rw [fetch, h]

/-- With nothing scheduled a posted operation goes first (R237). -/
theorem fetch_unscheduled_posted {s : State} (h : s.turns = []) (hb : s.inbox ≠ []) : fetch s = fetchPosted s := by
  simp only [fetch, h, if_neg hb]

theorem fetch_unscheduled_slot {s : State} (h : s.turns = []) (hb : s.inbox = []) : fetch s = fetchSlot s := by
  simp only [fetch, h, if_pos hb]

theorem fetchPosted_empty {s : State} (h : s.inbox = []) : fetchPosted s = .wait s := by
  simp only [fetchPosted, h]

theorem fetchSlot_due {s : State} {slot : Slot} (h : s.nextSlot = some slot) : fetchSlot s = .run slot.instr s := by
  simp only [fetchSlot, h]

theorem fetchSlot_rest {s : State} (h : s.nextSlot = none) : fetchSlot s = .wait s := by
  simp only [fetchSlot, h]

/-- An empty stream opens with no operation. -/
theorem inbox_ne_nil_of_decode {bs rest : List Byte} {i : Instr} (h : decode bs = .ok (i, rest)) : bs ≠ [] := by
  rintro rfl
  cases h

/-- On its turn, the posted operation is the step. -/
theorem step_posted_turn {s : State} {i : Instr} {rest : List Byte} {ts : List Turn} (ha : s.params.admitted = true)
    (hd : decode s.inbox = .ok (i, rest)) (ht : s.turns = .posted :: ts) : step s = exec i { s with inbox := rest, turns := ts } :=
  step_of_fetch_run ha ((fetch_posted_turn ht).trans (fetchPosted_eq hd))

/-- Settles O45: whose turn it is, then what the stream opens with. -/
theorem stepRunsPostedOperation : Obligations.StepRunsPostedOperation := by
  refine ⟨fun s i rest ts ha hd => ⟨fun ht => ?_, fun ht => ?_⟩, fun s e ts ha hne hd ht => ?_⟩
  · exact step_posted_turn ha hd ht
  · exact step_of_fetch_run ha ((fetch_unscheduled_posted ht (inbox_ne_nil_of_decode hd)).trans (fetchPosted_eq hd))
  · obtain ht | ht := ht
    · exact step_of_fetch_bad ha ((fetch_posted_turn ht).trans (fetchPosted_bad hd hne))
    · exact step_of_fetch_bad ha ((fetch_unscheduled_posted ht hne).trans (fetchPosted_bad hd hne))

/-- Settles O46: the schedule's five cases, each the fetch of that turn. -/
theorem stepRunsDueSlot : Obligations.StepRunsDueSlot := by
  refine fun s ha => ⟨fun slot ts hn ht => ?_, fun slot hn ht hb => ?_, fun hn ht hb => ?_, fun ts hn ht => ?_, fun ts hb ht => ?_⟩
  · exact step_of_fetch_run ha ((fetch_slot_turn ht).trans (fetchSlot_due hn))
  · exact step_of_fetch_run ha ((fetch_unscheduled_slot ht hb).trans (fetchSlot_due hn))
  · exact step_of_fetch_wait ha ((fetch_unscheduled_slot ht hb).trans (fetchSlot_rest hn))
  · exact step_of_fetch_wait ha ((fetch_slot_turn ht).trans (fetchSlot_rest hn))
  · exact step_of_fetch_wait ha ((fetch_posted_turn ht).trans (fetchPosted_empty hb))

/-! ### The configurations (R6 to R8, R188) -/

/-- `max(4, NUM_CHANNELS - 1) <= MAX_PAYLOAD <= 32`, as a proposition (R6). -/
theorem payloadInRange_iff (p : Params) :
    p.payloadInRange = true ↔ 4 ≤ p.maxPayload ∧ p.channels - 1 ≤ p.maxPayload ∧ p.maxPayload ≤ 32 := by
  simp only [Params.payloadInRange, Bool.and_eq_true, decide_eq_true_eq, max_le_iff, and_assoc]

/-- Pairwise distinct OP_* values, as a proposition (R6). -/
theorem opcodesDistinct_iff (p : Params) :
    p.opcodesDistinct = true ↔ p.opSetChannels ≠ p.opGetTemp ∧ p.opSetChannels ≠ p.opGetAirTempHumidity ∧
      p.opSetChannels ≠ p.opGetDepth ∧ p.opGetTemp ≠ p.opGetAirTempHumidity ∧ p.opGetTemp ≠ p.opGetDepth ∧
      p.opGetAirTempHumidity ≠ p.opGetDepth := by
  simp only [Params.opcodesDistinct, Bool.and_eq_true, decide_eq_true_eq, and_assoc]

theorem pollLimitValid_iff (p : Params) : p.pollLimitValid = true ↔ p.pollLimit ≠ some 0 := decide_eq_true_iff

theorem admitted_iff (p : Params) :
    p.admitted = true ↔ p.payloadInRange = true ∧ p.opcodesDistinct = true ∧ p.pollLimitValid = true := by
  simp only [Params.admitted, Bool.and_eq_true, and_assoc]

/-- The parameters a build configuration asks for, in one integrity mode and with one channel count (R8). -/
def buildParams (c : BuildConfig) (mode : IntegrityMode) : Params :=
  { c.params with integrityMode := mode, numChannels := c.bankChannels }

/-- What is admitted, and as what: an integrity mode, one channel count, and parameters in their ranges (R8). -/
theorem accepted_eq_ok_iff (c : BuildConfig) (p : Params) :
    c.accepted = .ok p ↔
      ∃ mode, c.integrity.mode = some mode ∧ c.lengthChannels = c.bankChannels ∧ p = buildParams c mode ∧ p.admitted = true := by
  constructor
  · intro h
    simp only [BuildConfig.accepted] at h
    split at h
    · cases h
    · rename_i mode hm
      split_ifs at h with hc ho hp hl
      cases h
      simp only [Bool.not_eq_true', Bool.not_eq_false] at ho hp hl
      exact ⟨mode, hm, not_not.1 hc, rfl, (admitted_iff _).2 ⟨hp, ho, hl⟩⟩
  · rintro ⟨mode, hm, hc, rfl, ha⟩
    obtain ⟨hp, ho, hl⟩ := (admitted_iff _).1 ha
    rw [buildParams] at hp ho hl
    simp [BuildConfig.accepted, buildParams, hm, hc, hp, ho, hl]

theorem mode_eq_some_iff (i : IntegrityChoice) (mode : IntegrityMode) :
    i.mode = some mode ↔ i = .table ∧ mode = .table ∨ i = .direct ∧ mode = .direct := by
  cases i <;> cases mode <;> decide

theorem accepted_of_disabled {c : BuildConfig} (h : c.integrity = .disabled) : c.accepted = .error .integrityDisabled := by
  simp only [BuildConfig.accepted, h, IntegrityChoice.mode]

/-- Settles O44: admission is exactly an integrity mode, one channel count and the ranges of R6 and R188. -/
theorem refusedConfigurations : Obligations.RefusedConfigurations := by
  refine ⟨fun c => accepted_of_disabled, fun c hne p h => ?_, fun c p h => ?_, ?_, fun s => step_of_not_admitted⟩
  · obtain ⟨_, _, hc, _⟩ := (accepted_eq_ok_iff c p).1 h
    exact hne hc
  · obtain ⟨mode, hm, _, _, ha⟩ := (accepted_eq_ok_iff c p).1 h
    obtain ⟨hp, ho, hl⟩ := (admitted_iff p).1 ha
    obtain ⟨h4, hch, h32⟩ := (payloadInRange_iff p).1 hp
    obtain ⟨h1, h2, h3, h5, h6, h7⟩ := (opcodesDistinct_iff p).1 ho
    refine ⟨ha, fun hd => ?_, h1, h2, h3, h5, h6, h7, h4, hch, h32, (pollLimitValid_iff p).1 hl⟩
    rw [hd] at hm
    cases hm
  · intro c mode hmode hc h1 h2 h3 h4 h5 h6 hlow hch hhigh hl
    have hp : (buildParams c mode).payloadInRange = true := (payloadInRange_iff _).2 ⟨hlow, hch, hhigh⟩
    have ho : (buildParams c mode).opcodesDistinct = true := (opcodesDistinct_iff _).2 ⟨h1, h2, h3, h4, h5, h6⟩
    have hv : (buildParams c mode).pollLimitValid = true := (pollLimitValid_iff _).2 hl
    exact (accepted_eq_ok_iff c _).2 ⟨mode, (mode_eq_some_iff _ _).2 hmode, hc, rfl, (admitted_iff _).2 ⟨hp, ho, hv⟩⟩

/-! ### The invariant at reset and along the driver's moves -/

theorem resetWith_inv {p : Params} (h : p.admitted = true) : (State.resetWith p).Inv where
  admitted := h
  memory := resetWith_memory_wf p
  rxBound := Nat.zero_le _
  txSent := Nat.le_refl 0
  txBound := Nat.zero_le _
  response := nofun

/-- Settles O49: the counters are 0, and every index space is built at its capacity. -/
theorem resetMeetsInvariant : Obligations.ResetMeetsInvariant :=
  ⟨fun _ => resetWith_inv, resetWith_inv (by decide)⟩

/-- Nothing the invariant speaks of but one byte of scratch is the driver's to change (R233). -/
theorem DriverFrame.keeps_inv {s t : State} (hf : DriverFrame s t) (hs : s.Inv) : t.Inv where
  admitted := by rw [hf.params]; exact hs.admitted
  memory := by
    rw [hf.params]
    obtain hm | ⟨_, _, hm⟩ := hf.mem
    · rw [hm]; exact hs.memory
    · exact Memory.write_keeps_wf hm hs.memory
  rxBound := by rw [hf.params, hf.bus.rxCount]; exact hs.rxBound
  txSent := by rw [hf.bus.txCount, hf.bus.txLength]; exact hs.txSent
  txBound := by rw [hf.params, hf.bus.txLength]; exact hs.txBound
  response := by rw [hf.bus.busState, hf.bus.txLength]; exact hs.response

/-- A slot always answers, and keeps the invariant. -/
theorem exec_slot_keeps_inv {s : State} (hs : s.Inv) (slot : Slot) :
    ∃ t, exec slot.instr s = .next t ∧ t.Inv ∧ t.inbox = s.inbox := by
  obtain ⟨t, ht⟩ := State.slot_exists (Memory.wf_length hs.memory .scratch) slot
  have hf := State.slot_frame ht
  exact ⟨t, (exec_slot s slot).trans (finish_eq_next.2 ht), hf.keeps_inv hs, hf.inbox⟩

/-! ### Runs without end (R272) -/

/-- The schedule is no part of the invariant. -/
theorem State.Inv.scheduled {s : State} (h : s.Inv) (ts : List Turn) : ({ s with turns := ts } : State).Inv :=
  ⟨h.admitted, h.memory, h.rxBound, h.txSent, h.txBound, h.response⟩

/-- The MainLoop's turn: nothing to do, or the slot that is due. -/
theorem fetchSlot_cases (s : State) : fetchSlot s = .wait s ∨ ∃ slot : Slot, fetchSlot s = .run slot.instr s := by
  cases hn : s.nextSlot with
  | none => exact .inl (fetchSlot_rest hn)
  | some slot => exact .inr ⟨slot, fetchSlot_due hn⟩

/-- With nothing posted, the fetch waits or takes a slot that is due, whatever is scheduled. -/
theorem fetch_quiet {s : State} (hb : s.inbox = []) :
    ∃ ts, fetch s = .wait { s with turns := ts } ∨ ∃ slot : Slot, fetch s = .run slot.instr { s with turns := ts } := by
  match ht : s.turns with
  | .posted :: ts => exact ⟨ts, .inl ((fetch_posted_turn ht).trans (fetchPosted_empty hb))⟩
  | .slot :: ts =>
    rw [fetch_slot_turn ht]
    exact ⟨ts, fetchSlot_cases _⟩
  | [] =>
    have hs : ({ s with turns := [] } : State) = s := by rw [← ht]
    rw [fetch_unscheduled_slot ht hb]
    exact ⟨[], by rw [hs]; exact fetchSlot_cases s⟩

/-- With nothing posted a step always answers (R272), and leaves nothing posted. -/
theorem step_quiet {s : State} (hs : s.Inv) (hb : s.inbox = []) : ∃ t, step s = .next t ∧ t.Inv ∧ t.inbox = [] := by
  obtain ⟨ts, hf | ⟨slot, hf⟩⟩ := fetch_quiet hb
  · exact ⟨_, step_of_fetch_wait hs.admitted hf, hs.scheduled ts, hb⟩
  · obtain ⟨t, ht, hi, hib⟩ := exec_slot_keeps_inv (hs.scheduled ts) slot
    exact ⟨t, (step_of_fetch_run hs.admitted hf).trans ht, hi, hib.trans hb⟩

/-- With nothing ever posted, the run from a state that meets the invariant goes on forever. -/
theorem infiniteRun_of_quiet {s : State} {env : Nat → Supply} (hs : s.Inv) (hb : s.inbox = []) (he : ∀ n, (env n).posted = []) :
    InfiniteRun env (runStates env s) := by
  refine InfiniteRun.of_total (P := fun s => s.Inv ∧ s.inbox = []) (fun n s h => ?_) ⟨hs, hb⟩
  obtain ⟨hi, hb⟩ := h
  exact step_quiet (hi.supplied _) (by rw [State.supplied_inbox, hb, he n]; rfl)

/-! ### Interleavings of the agents' steps (R5, log 29) -/

/-- Where nothing is left to take: an admitted configuration, an empty stream and an empty schedule. -/
structure State.Clear (s : State) : Prop where
  admitted : s.params.admitted = true
  inbox : s.inbox = []
  turns : s.turns = []

theorem exec_keeps_clear {i : Instr} {s t : State} (h : exec i s = .next t) (hs : s.Clear) : t.Clear := by
  obtain ⟨hp, hi, ht⟩ := exec_keeps_environment h
  exact ⟨by rw [hp]; exact hs.admitted, hi.trans hs.inbox, ht.trans hs.turns⟩

/-- A MainLoop step answers what its slot answers, or nothing happened. -/
theorem mainLoopStep_cases {s t : State} (h : mainLoopStep s = .next t) :
    s.nextSlot = none ∧ t = s ∨ ∃ slot, s.nextSlot = some slot ∧ exec slot.instr s = .next t := by
  unfold mainLoopStep at h
  split at h
  · rename_i hn
    cases h
    exact .inl ⟨hn, rfl⟩
  · rename_i slot hn
    exact .inr ⟨slot, hn, h⟩

theorem State.Clear.answered {s : State} (h : s.Clear) (answers : List Bool) : ({ s with line := s.line ++ answers } : State).Clear :=
  ⟨h.admitted, h.inbox, h.turns⟩

theorem outcome_keeps_clear {a : AgentStep} {s t : State} (h : a.outcome s = .next t) (hs : s.Clear) : t.Clear := by
  cases a with
  | operation i => exact exec_keeps_clear h hs
  | slot answers =>
    obtain ⟨_, rfl⟩ | ⟨slot, _, he⟩ := mainLoopStep_cases h
    · exact hs.answered answers
    · exact exec_keeps_clear he (hs.answered answers)

/-- The step with an operation as the only thing supplied is that operation. -/
theorem step_supplied_operation {s : State} (hs : s.Clear) {i : Instr} (hw : i.wellFormed = true) :
    step (s.supplied (AgentStep.operation i).supply) = exec i s := by
  have hd : decode (s.supplied (AgentStep.operation i).supply).inbox = .ok (i, []) := by
    simpa [hs.inbox, AgentStep.supply, streamOf] using decode_encode_wellFormed hw []
  have ht : (s.supplied (AgentStep.operation i).supply).turns = .posted :: [] := by
    simp [hs.turns, AgentStep.supply]
  have hback : ({ s.supplied (AgentStep.operation i).supply with inbox := [], turns := [] } : State) = s := by
    simp [State.supplied, AgentStep.supply, ← hs.inbox, ← hs.turns]
  exact (step_posted_turn (s := s.supplied _) hs.admitted hd ht).trans (congrArg (exec i) hback)

/-- The step with the MainLoop's turn and the sensor's answers as all that is supplied is the MainLoop's step. -/
theorem step_supplied_slot {s : State} (hs : s.Clear) (answers : List Bool) :
    step (s.supplied (AgentStep.slot answers).supply) = mainLoopStep { s with line := s.line ++ answers } := by
  have ht : (s.supplied (AgentStep.slot answers).supply).turns = .slot :: [] := by
    simp [hs.turns, AgentStep.supply]
  have hback : ({ s.supplied (AgentStep.slot answers).supply with turns := [] } : State) = { s with line := s.line ++ answers } := by
    simp [State.supplied, AgentStep.supply, streamOf, ← hs.turns]
  have hf := fetch_slot_turn ht
  rw [hback] at hf
  unfold mainLoopStep
  split
  · rename_i hn
    exact step_of_fetch_wait hs.admitted (hf.trans (fetchSlot_rest hn))
  · rename_i slot hn
    exact step_of_fetch_run hs.admitted (hf.trans (fetchSlot_due hn))

/-- An agent's step is the step the environment brings about by its supply. -/
theorem step_supplied_agent {s : State} (hs : s.Clear) {a : AgentStep} (hw : ∀ i, a = .operation i → i.wellFormed = true) :
    step (s.supplied a.supply) = a.outcome s := by
  cases a with
  | operation i => exact step_supplied_operation hs (hw i rfl)
  | slot answers => exact step_supplied_slot hs answers

/-- Every infinite interleaving of the agents' steps is an infinite run. -/
theorem infiniteRun_of_interleaving {agents : Nat → AgentStep} {states : Nat → State} (h0 : (states 0).Clear)
    (hw : ∀ n i, agents n = AgentStep.operation i → i.wellFormed = true)
    (ho : ∀ n, (agents n).outcome (states n) = .next (states (n + 1))) : InfiniteRun (fun n => (agents n).supply) states := by
  have hclear : ∀ n, (states n).Clear := by
    intro n
    induction n with
    | zero => exact h0
    | succ n ih => exact outcome_keeps_clear (ho n) ih
  intro n
  rw [step_supplied_agent (hclear n) (hw n), ho n]

/-! ### A poll of zeros (R179, R187) -/

/-- An acquisition at its unbounded poll, its result as it was, with no 1 among the sensor's coming answers. -/
structure State.PollsZeros (r : OwResult) (s : State) : Prop where
  owSeq : s.owSeq = .poll
  unbounded : s.params.pollLimit = none
  zeros : ∀ b ∈ s.line, b = false
  owResult : s.owResult = r

theorem State.PollsZeros.acquiring {r : OwResult} {s : State} (h : s.PollsZeros r) : s.acquiring = true := by
  rw [State.acquiring, h.owSeq]

theorem State.PollsZeros.nextSlot {r : OwResult} {s : State} (h : s.PollsZeros r) : s.nextSlot = some .read := by
  rw [State.nextSlot, h.owSeq]

theorem State.PollsZeros.supplied {r : OwResult} {s : State} (h : s.PollsZeros r) {e : Supply} (he : ∀ b ∈ e.answers, b = false) :
    (s.supplied e).PollsZeros r where
  owSeq := h.owSeq
  unbounded := h.unbounded
  zeros := fun b hb => (List.mem_append.1 hb).elim (h.zeros b) (he b)
  owResult := h.owResult

/-- What leaves the sequencer's position and result alone, and takes samples from the line at most, keeps the poll. -/
theorem State.PollsZeros.of_eq {r : OwResult} {s t : State} (h : s.PollsZeros r) (hq : t.owSeq = s.owSeq) (hp : t.params = s.params)
    (hl : t.line ⊆ s.line) (hr : t.owResult = s.owResult) : t.PollsZeros r where
  owSeq := hq.trans h.owSeq
  unbounded := by rw [hp]; exact h.unbounded
  zeros := fun b hb => h.zeros b (hl hb)
  owResult := hr.trans h.owResult

theorem sensorAnswer_eq_false {s : State} (hz : ∀ b ∈ s.line, b = false) (hne : s.line ≠ []) : s.sensorAnswer = false := by
  unfold State.sensorAnswer
  split
  · rename_i b rest hl
    exact hz b (by rw [hl]; exact List.mem_cons_self)
  · exact absurd (by assumption) hne

/-- A slot's own effect, before the sequencer moves, keeps the poll: it takes one sample at most. -/
theorem State.PollsZeros.slotDone {r : OwResult} {s : State} (h : s.PollsZeros r) (slot : Slot) : (s.slotDone slot).PollsZeros r := by
  rw [State.slotDone_eq]
  cases slot with
  | write b => exact h.of_eq rfl rfl (List.Subset.refl _) rfl
  | reset | read =>
    rw [State.countSample_cases]
    exact h.of_eq rfl rfl (List.tail_subset _) rfl

/-- An unbounded poll that reads 0 counts and stays (R179). -/
theorem State.afterPoll_zero {s : State} (h : s.params.pollLimit = none) : s.afterPoll false = { s with pollCount := s.pollCount + 1 } := by
  simp only [State.afterPoll, h, Bool.false_eq_true, if_false]

/-- No slot moves the sequencer on: the slot due is the poll, and its sample is 0. -/
theorem slot_keeps_poll {r : OwResult} {s t : State} {slot : Slot} (hs : s.PollsZeros r) (hne : s.line ≠ []) (h : s.slot slot = some t) :
    t.PollsZeros r := by
  have hd := hs.slotDone slot
  rw [State.slot_eq] at h
  split at h
  · rename_i hn
    obtain rfl : Slot.read = slot := Option.some.inj (hs.nextSlot.symm.trans hn)
    have hlevel : (s.runSlot .read).2 = false := by
      rw [State.runSlot_eq]
      exact sensorAnswer_eq_false hs.zeros hne
    rw [hlevel, State.advance, State.afterRead, if_pos hd.owSeq, State.afterPoll_zero hd.unbounded] at h
    cases h
    exact hd.of_eq rfl rfl (List.Subset.refl _) rfl
  · cases h
    exact hd

/-- At a poll of zeros no operation but Reset moves the sequencer: the bus and the host leave the driver alone (R238), and the busy driver
takes no second call (R217, log 13). -/
theorem exec_keeps_poll {r : OwResult} {i : Instr} {s t : State} (hs : s.PollsZeros r) (hne : s.line ≠ []) (hi : i ≠ .rst)
    (h : exec i s = .next t) : t.PollsZeros r := by
  cases exec_executed h with
  | bus hf => exact hs.of_eq hf.driver.owSeq hf.params (by rw [hf.line]; exact List.Subset.refl _) hf.driver.owResult
  | slot slot _ hslot => exact slot_keeps_poll hs hne hslot
  | byteCall c _ hc =>
    obtain ⟨hb, _⟩ := State.callByte_cases hc
    simp [State.driverBusy, hs.acquiring] at hb
  | acquisition _ ha _ => simp [hs.acquiring] at ha
  | reset hrst _ => exact absurd hrst hi

/-- At a poll of zeros no step but Reset moves the sequencer. -/
theorem step_keeps_poll {r : OwResult} {s t : State} (hs : s.PollsZeros r) (hne : s.line ≠ []) (hrst : ∀ u, fetch s ≠ .run .rst u)
    (h : step s = .next t) : t.PollsZeros r := by
  obtain ⟨_, ⟨i, u, hf, he⟩ | hf⟩ := step_cases h
  · have hi : i ≠ .rst := fun hi => hrst u (hi ▸ hf)
    have hline : u.line = s.line := by rw [fetch_run_frame hf]
    have hu : u.PollsZeros r := by
      rw [fetch_run_frame hf]
      exact hs.of_eq rfl rfl (List.Subset.refl _) rfl
    exact exec_keeps_poll hu (by rw [hline]; exact hne) hi he
  · rw [fetch_wait_frame hf]
    exact hs.of_eq rfl rfl (List.Subset.refl _) rfl

theorem State.PollsZeros.not_ended {r : OwResult} {s : State} (h : s.PollsZeros r) : s.acquisitionEnded = false := by
  rw [State.acquisitionEnded, h.owSeq]
  rfl

/-- An infinite run whose samples are all 0 never leaves its poll. -/
theorem InfiniteRun.keeps_poll {r : OwResult} {env : Nat → Supply} {states : Nat → State} (h : InfiniteRun env states)
    (h0 : (states 0).PollsZeros r) (he : ∀ n, (env n).answers ≠ [] ∧ ∀ b ∈ (env n).answers, b = false)
    (hrst : ∀ n u, fetch ((states n).supplied (env n)) ≠ .run .rst u) (n : Nat) : (states n).PollsZeros r := by
  induction n with
  | zero => exact h0
  | succ n ih =>
    obtain ⟨hne, hz⟩ := he n
    exact step_keeps_poll (ih.supplied hz) (List.append_ne_nil_of_right_ne_nil _ hne) (hrst n) (h n)

/-- Settles O47: a quiet step always answers; an agent's step is a step of the machine; a poll of zeros is kept by every step but Reset. -/
theorem runsCanGoOnForever : Obligations.RunsCanGoOnForever := by
  refine ⟨fun s env hs hb he => infiniteRun_of_quiet hs hb he, fun agents states ha hb ht hw ho => ?_, ?_⟩
  · exact infiniteRun_of_interleaving ⟨ha, hb, ht⟩ hw ho
  · intro env states hrun hq hl hz he hrst n
    have hpoll := hrun.keeps_poll ⟨hq, hl, hz, rfl⟩ he hrst n
    exact ⟨hpoll.owSeq, hpoll.not_ended, hpoll.owResult⟩

end Sys2Proof.Machine

/-! # Which operation writes which shared element

What an operation can do to the bus engine's state, the two flags, the snapshot and the bank is said once, as one of eight effects. The
statements about each element's writers follow from it by cases. -/

namespace Sys2Proof.Machine

/-! ### What is left of the shared elements -/

/-- `error`, `enable` and the snapshot as they were. -/
structure FlagsKept (s t : State) : Prop where
  error : t.error = s.error
  enable : t.enable = s.enable
  snapshot : t.snapshot = s.snapshot

/-- Every element the bus engine shares with the host as it was: the flags, the snapshot and the bank. -/
structure SharedKept (s t : State) : Prop extends FlagsKept s t where
  bank : t.mem.bank = s.mem.bank

/-- The failure procedure has run (R231): `error` and Idle, with the index spaces and the rest of the shared elements as they were. -/
structure FailedFrom (s t : State) : Prop where
  error : t.error = true
  busState : t.busState = .idle
  enable : t.enable = s.enable
  snapshot : t.snapshot = s.snapshot
  mem : t.mem = s.mem

theorem FlagsKept.of_answer {s t : State} {a : Answer} (h : FlagsKept (s.answer a) t) : FlagsKept s t :=
  ⟨h.error, h.enable, h.snapshot⟩

theorem SharedKept.of_answer {s t : State} {a : Answer} (h : SharedKept (s.answer a) t) : SharedKept s t :=
  ⟨h.toFlagsKept.of_answer, h.bank⟩

theorem FailedFrom.of_answer {s t : State} {a : Answer} (h : FailedFrom (s.answer a) t) : FailedFrom s t :=
  ⟨h.error, h.busState, h.enable, h.snapshot, h.mem⟩

theorem SharedKept.refl (s : State) : SharedKept s s := ⟨⟨rfl, rfl, rfl⟩, rfl⟩

theorem State.fail_failedFrom (s : State) (k : ErrorKind) : FailedFrom s (s.fail k) := ⟨rfl, rfl, rfl, rfl, rfl⟩

theorem State.failRead_failedFrom (s : State) (k : ErrorKind) : FailedFrom s (s.failRead k) := ⟨rfl, rfl, rfl, rfl, rfl⟩

/-- A write to any space but the bank keeps the bank. -/
theorem Memory.write_bank {m m' : Memory} {sp : Space} {start : Nat} {bs : List Byte} (h : m.write sp start bs = some m')
    (hne : .bank ≠ sp) : m'.bank = m.bank :=
  Memory.write_space_other h hne

theorem State.startMessage_sharedKept (s : State) : SharedKept s s.startMessage := by
  unfold State.startMessage
  split
  · exact ⟨⟨rfl, rfl, rfl⟩, rfl⟩
  · exact .refl s

theorem State.receive_shared {s t : State} {b : Byte} (h : s.receive b = some t) : FailedFrom s t ∨ SharedKept s t := by
  obtain rfl | rfl | ⟨_, m, hm, rfl⟩ := State.receive_cases h
  · exact .inr (.refl _)
  · exact .inl (s.fail_failedFrom _)
  · exact .inr ⟨⟨rfl, rfl, rfl⟩, Memory.write_bank hm (by decide)⟩

theorem State.emitByte_shared {s t : State} (h : s.emitByte = some t) : FailedFrom s t ∨ SharedKept s t := by
  obtain ⟨_, _, _, _, rfl⟩ | ⟨k, rfl⟩ := State.emitByte_cases h
  · exact .inr ⟨⟨rfl, rfl, rfl⟩, rfl⟩
  · exact .inl (s.failRead_failedFrom k)

theorem State.respond_sharedKept {s t : State} {payload : List Byte} (h : s.respond payload = some t) : SharedKept s t := by
  obtain ⟨m, hm, rfl⟩ := State.respond_cases h
  exact ⟨⟨rfl, rfl, rfl⟩, Memory.write_bank hm (by decide)⟩

theorem State.applyChannels_shared {s t : State} {form : Form} (h : s.applyChannels form = some t) :
    FailedFrom s t ∨ FlagsKept s t := by
  obtain ⟨k, rfl⟩ | ⟨_, _, _, _, _, _, _, rfl⟩ := State.applyChannels_cases h
  · exact .inl (s.fail_failedFrom k)
  · exact .inr ⟨rfl, rfl, rfl⟩

theorem State.dispatch_shared {s t : State} {c : Command} {form : Form} (h : s.dispatch c form = some t) :
    FailedFrom s t ∨ FlagsKept s t := by
  cases c with
  | setChannels => exact State.applyChannels_shared h
  | getTemp | getAirTempHumidity | getDepth => exact .inr (State.respond_sharedKept h).toFlagsKept

theorem State.completeMessage_shared {s t : State} (h : s.completeMessage = some t) : FailedFrom s t ∨ FlagsKept s t := by
  obtain ⟨k, rfl⟩ | ⟨_, _, _, _, _, hd⟩ := State.completeMessage_cases h
  · exact .inl (s.fail_failedFrom k)
  · exact State.dispatch_shared hd

/-- The driver writes no shared element (R233): the only byte it writes is one of scratch. -/
theorem DriverFrame.sharedKept {s t : State} (h : DriverFrame s t) : SharedKept s t where
  error := h.bus.error
  enable := h.bus.enable
  snapshot := h.snapshot
  bank := by
    obtain hm | ⟨_, _, hm⟩ := h.mem
    · rw [hm]
    · exact Memory.write_bank hm (by decide)

/-! ### The effect of an operation on the shared elements -/

/-- The bus events and the dispatcher's commands (R22). -/
inductive MovesBus : Instr → Prop where
  | wr : MovesBus .wr
  | rx (b : Byte) : MovesBus (.rx b)
  | wc : MovesBus .wc
  | rd : MovesBus .rd
  | sp : MovesBus .sp
  | setChannels (form : Form) : MovesBus (.setChannels form)
  | getTemp : MovesBus .getTemp
  | getAirTempHumidity : MovesBus .getAirTempHumidity
  | getDepth : MovesBus .getDepth
  | unrecognized : MovesBus .unrecognized

/-- The two operations that can run SETCHANNELS. -/
inductive WritesBank : Instr → Prop where
  | wc : WritesBank .wc
  | setChannels (form : Form) : WritesBank (.setChannels form)

theorem WritesBank.movesBus {i : Instr} (h : WritesBank i) : MovesBus i := by
  cases h with
  | wc => exact .wc
  | setChannels form => exact .setChannels form

/-- What an operation `i` that takes `s` to `t` has done to the bus engine's state and the shared elements. -/
inductive SharedEffect (i : Instr) (s t : State) : Prop where
  | kept (hb : t.busState = s.busState) (h : SharedKept s t)
  | moved (hi : MovesBus i) (h : SharedKept s t)
  | failed (hi : MovesBus i) (h : FailedFrom s t)
  | channels (hi : WritesBank i) (h : FlagsKept s t)
  | cleared (hi : i = .clr) (ht : t = (s.answer .none).clearError)
  | enabled (v : Bool) (hi : i = .en v) (ht : t = (s.answer .none).setEnable v)
  | published (snap : Snapshot) (hi : i = .pub snap) (ht : t = { s.answer .none with snapshot := snap })
  | reset (hi : i = .rst) (ht : t = s.resetAction)

theorem SharedEffect.answered {i : Instr} {s t : State} {a : Answer} (h : (.next (s.answer a) : Result) = .next t) :
    SharedEffect i s t := by
  cases h
  exact .kept rfl (SharedKept.refl _).of_answer

theorem SharedEffect.of_slot {i : Instr} {s t : State} {slot : Slot} (h : finish (s.slot slot) = .next t) : SharedEffect i s t :=
  have hf := State.slot_frame (finish_eq_next.1 h)
  .kept hf.bus.busState hf.sharedKept

theorem SharedEffect.of_callByte {i : Instr} {s t : State} {c : ByteCall} (h : s.callByte c = .next t) : SharedEffect i s t := by
  obtain ⟨_, rfl⟩ := State.callByte_cases h
  exact .kept rfl ⟨⟨rfl, rfl, rfl⟩, rfl⟩

theorem SharedEffect.of_append {i : Instr} {s t : State} {v : Variant} {buf : List Byte} {len : Nat}
    (h : answerAppend v buf len s = .next t) : SharedEffect i s t := by
  unfold answerAppend at h
  split at h
  · exact .answered h
  · cases h

theorem SharedEffect.of_verify {i : Instr} {s t : State} {v : Variant} {buf : List Byte} {len : Nat}
    (h : answerVerify v buf len s = .next t) : SharedEffect i s t := by
  unfold answerVerify at h
  split at h
  · exact .answered h
  · cases h

/-- A GET_* command posted alone. -/
theorem SharedEffect.of_respond {i : Instr} {s t : State} {payload : List Byte} (hi : MovesBus i)
    (h : finish ((s.answer .none).respond payload) = .next t) : SharedEffect i s t :=
  .moved hi (State.respond_sharedKept (finish_eq_next.1 h)).of_answer

/-- A bus event that fails, or keeps the shared elements. -/
theorem SharedEffect.of_shared {i : Instr} {s t : State} (hi : MovesBus i) (h : FailedFrom s t ∨ SharedKept s t) : SharedEffect i s t :=
  h.elim (.failed hi) (.moved hi)

/-- SETCHANNELS, posted alone or in a message, on the state with its answer cleared. -/
theorem SharedEffect.of_channels {i : Instr} {s t : State} (hi : WritesBank i)
    (h : FailedFrom (s.answer .none) t ∨ FlagsKept (s.answer .none) t) : SharedEffect i s t :=
  h.elim (fun hf => .failed hi.movesBus hf.of_answer) fun hk => .channels hi hk.of_answer

theorem execWc_sharedEffect {s t : State} (h : execWc s = .next t) : SharedEffect .wc s t := by
  unfold execWc at h
  split at h
  · exact .answered h
  · exact .of_channels .wc (State.completeMessage_shared (finish_eq_next.1 h))

/-- The case split over the operations, made once: each answers with its own one of the eight effects. -/
theorem exec_sharedEffect {i : Instr} {s t : State} (h : exec i s = .next t) : SharedEffect i s t := by
  cases i with
  | wr => cases h; exact .moved .wr (State.startMessage_sharedKept _).of_answer
  | rx b => exact .of_shared (.rx b) ((State.receive_shared (finish_eq_next.1 h)).imp .of_answer .of_answer)
  | wc => exact execWc_sharedEffect h
  | rd => exact .of_shared .rd (State.emitByte_shared (finish_eq_next.1 h))
  | sp => cases h; exact .moved .sp ⟨⟨rfl, rfl, rfl⟩, rfl⟩
  | accept expected =>
    obtain ⟨v, _, rfl⟩ := Option.map_eq_some_iff.1 (finish_eq_next.1 h)
    exact .answered rfl
  | setChannels form => exact .of_channels (.setChannels form) (State.applyChannels_shared (finish_eq_next.1 h))
  | getTemp => exact .of_respond .getTemp h
  | getAirTempHumidity => exact .of_respond .getAirTempHumidity h
  | getDepth => exact .of_respond .getDepth h
  | unrecognized => cases h; exact .failed .unrecognized (State.fail_failedFrom _ _).of_answer
  | accumulatePec | crcPec | accumulateOw | crcOw | qerr | chan => exact .answered h
  | appendPec | appendOw => exact .of_append h
  | verifyPec | verifyOw => exact .of_verify h
  | owReset | owWriteBit | owReadBit => exact .of_slot h
  | owWriteByte | owReadByte | skipRom | convertT | readScratchpad => exact .of_callByte h
  | acquireTemperature =>
    obtain ⟨_, rfl⟩ := execAcquireTemperature_cases h
    exact .kept rfl ⟨⟨rfl, rfl, rfl⟩, rfl⟩
  | clr => cases h; exact .cleared rfl rfl
  | en v => cases h; exact .enabled v rfl rfl
  | pub snap => cases h; exact .published snap rfl rfl
  | rst => cases h; exact .reset rfl rfl

/-! ### The writers of each element -/

theorem movesBus_iff (i : Instr) :
    MovesBus i ↔ i = .wr ∨ (∃ b, i = .rx b) ∨ i = .wc ∨ i = .rd ∨ i = .sp ∨ (∃ form, i = .setChannels form) ∨ i = .getTemp ∨
      i = .getAirTempHumidity ∨ i = .getDepth ∨ i = .unrecognized := by
  constructor
  · intro h
    cases h <;> simp
  · rintro (rfl | ⟨b, rfl⟩ | rfl | rfl | rfl | ⟨form, rfl⟩ | rfl | rfl | rfl | rfl) <;> constructor

theorem writesBank_iff (i : Instr) : WritesBank i ↔ i = .wc ∨ ∃ form, i = .setChannels form := by
  constructor
  · intro h
    cases h <;> simp
  · rintro (rfl | ⟨form, rfl⟩) <;> constructor

/-- The writers of the bus engine's state (R22). -/
theorem exec_busState_writers {i : Instr} {s t : State} (h : exec i s = .next t) (hne : t.busState ≠ s.busState) :
    MovesBus i ∨ i = .rst := by
  cases exec_sharedEffect h with
  | kept hb _ => exact absurd hb hne
  | moved hi _ | failed hi _ => exact .inl hi
  | channels hi _ => exact .inl hi.movesBus
  | cleared _ ht | enabled _ _ ht | published _ _ ht => subst ht; exact absurd rfl hne
  | reset hi _ => exact .inr hi

/-- Settles O51: the effects that can move the bus engine's state, and whose they are. -/
theorem busStateHasItsWriters : Obligations.BusStateHasItsWriters := by
  intro i s t h hne
  simpa only [movesBus_iff, or_assoc] using exec_busState_writers h hne

/-- An operation that ends with `error` false where it was true (R29, R212, R260). -/
theorem exec_error_cleared {i : Instr} {s t : State} (h : exec i s = .next t) (hs : s.error = true) (ht : t.error = false) :
    i = .clr ∨ i = .rst := by
  have hne : t.error ≠ s.error := by rw [hs, ht]; decide
  cases exec_sharedEffect h with
  | kept _ hk | moved _ hk | channels _ hk => exact absurd hk.error hne
  | failed _ hf => exact absurd (hf.error.trans hs.symm) hne
  | cleared hi _ => exact .inl hi
  | enabled _ _ he | published _ _ he => subst he; exact absurd rfl hne
  | reset hi _ => exact .inr hi

/-- An operation that ends with `error` true where it was false has run the failure procedure (R231). -/
theorem exec_error_set {i : Instr} {s t : State} (h : exec i s = .next t) (hs : s.error = false) (ht : t.error = true) :
    FailedFrom s t := by
  have hne : t.error ≠ s.error := by rw [hs, ht]; decide
  cases exec_sharedEffect h with
  | kept _ hk | moved _ hk | channels _ hk => exact absurd hk.error hne
  | failed _ hf => exact hf
  | enabled _ _ he | published _ _ he => subst he; exact absurd rfl hne
  | cleared _ he | reset _ he => subst he; cases ht

/-- Settles O52: ClearError and Reset are the effects that clear the flag, and the failure procedure is the one that sets it. -/
theorem errorFlagHasItsWriters : Obligations.ErrorFlagHasItsWriters := by
  refine fun i s t h => ⟨exec_error_cleared h, fun hs ht => ?_⟩
  have hf := exec_error_set h hs ht
  exact ⟨hf.busState, congrArg Memory.bank hf.mem, congrArg Memory.tx hf.mem⟩

/-- The writers of the bank (R32). -/
theorem exec_bank_writers {i : Instr} {s t : State} (h : exec i s = .next t) (hne : t.mem.bank ≠ s.mem.bank) :
    WritesBank i ∨ i = .rst := by
  cases exec_sharedEffect h with
  | kept _ hk | moved _ hk => exact absurd hk.bank hne
  | failed _ hf => exact absurd (congrArg Memory.bank hf.mem) hne
  | channels hi _ => exact .inl hi
  | cleared _ ht | enabled _ _ ht | published _ _ ht => subst ht; exact absurd rfl hne
  | reset hi _ => exact .inr hi

/-- The writers of the snapshot (R34). -/
theorem exec_snapshot_writers {i : Instr} {s t : State} (h : exec i s = .next t) (hne : t.snapshot ≠ s.snapshot) :
    (∃ snap, i = .pub snap) ∨ i = .rst := by
  cases exec_sharedEffect h with
  | kept _ hk | moved _ hk | failed _ hk | channels _ hk => exact absurd hk.snapshot hne
  | cleared _ ht | enabled _ _ ht => subst ht; exact absurd rfl hne
  | published snap hi _ => exact .inl ⟨snap, hi⟩
  | reset hi _ => exact .inr hi

/-- The writers of `enable` (R28). -/
theorem exec_enable_writers {i : Instr} {s t : State} (h : exec i s = .next t) (hne : t.enable ≠ s.enable) :
    (∃ v, i = .en v) ∨ i = .rst := by
  cases exec_sharedEffect h with
  | kept _ hk | moved _ hk | failed _ hk | channels _ hk => exact absurd hk.enable hne
  | cleared _ ht | published _ _ ht => subst ht; exact absurd rfl hne
  | enabled v hi _ => exact .inl ⟨v, hi⟩
  | reset hi _ => exact .inr hi

/-- Settles O55: each element's one writer, and the environment that no operation touches. -/
theorem sharedElementsHaveOneWriter : Obligations.SharedElementsHaveOneWriter := by
  refine fun i s t h => ⟨fun hne => ?_, exec_snapshot_writers h, exec_enable_writers h, exec_keeps_environment h⟩
  simpa only [writesBank_iff, or_assoc] using exec_bank_writers h hne

/-- Settles O42: each element of the reset state is written out in `State.resetWith`. -/
theorem resetStateAsStated : Obligations.ResetStateAsStated :=
  fun _ => ⟨rfl, rfl, rfl, rfl, rfl, rfl, rfl, rfl, rfl, rfl, rfl, rfl, rfl, rfl⟩

end Sys2Proof.Machine

/-! # No index out of range, and the two sides that leave each other alone

Under the invariant every shared operation that reaches an index space answers, so no operation and no step faults (R51). Then the frames
between the bus engine and the one-wire driver (R233, R238), and the commands that fail (R155). -/

namespace Sys2Proof.Machine

/-! ### The invariant, seen from an operation -/

/-- The answer is no part of the invariant. -/
theorem State.Inv.answered {s : State} (h : s.Inv) (a : Answer) : (s.answer a).Inv :=
  ⟨h.admitted, h.memory, h.rxBound, h.txSent, h.txBound, h.response⟩

/-- An operation is taken from a state with the invariant. -/
theorem State.Inv.fetched {s u : State} {i : Instr} (h : s.Inv) (hf : fetch s = .run i u) : u.Inv := by
  rw [fetch_run_frame hf]
  exact ⟨h.admitted, h.memory, h.rxBound, h.txSent, h.txBound, h.response⟩

theorem State.Inv.rx_length {s : State} (h : s.Inv) : s.mem.rx.length = s.params.rxCap := Memory.wf_length h.memory .rx

theorem State.Inv.tx_length {s : State} (h : s.Inv) : s.mem.tx.length = s.params.txCap := Memory.wf_length h.memory .tx

theorem State.Inv.bank_length {s : State} (h : s.Inv) : s.mem.bank.length = s.params.channels := Memory.wf_length h.memory .bank

theorem State.Inv.scratch_length {s : State} (h : s.Inv) : s.mem.scratch.length = scratchCap := Memory.wf_length h.memory .scratch

/-! ### Every access lies inside its space (R51) -/

theorem State.receive_exists {s : State} (hs : s.Inv) (b : Byte) : ∃ t, s.receive b = some t := by
  by_cases hb : s.busState = .writeRequested
  · rcases Nat.lt_or_ge s.rxCount s.params.rxCap with hc | hc
    · obtain ⟨m, hm⟩ : ∃ m, s.mem.write .rx s.rxCount [b] = some m :=
        Memory.write_exists (by simpa [hs.rx_length] using hc)
      exact ⟨_, by rw [State.receive_stored hb hc, hm]; rfl⟩
    · exact ⟨_, State.receive_overflow hb hc⟩
  · exact ⟨_, State.receive_ignored hb⟩

theorem State.emitByte_exists {s : State} (hs : s.Inv) : ∃ t, s.emitByte = some t := by
  by_cases hb : s.busState = .readRequested
  · rcases Nat.lt_or_ge s.txCount s.txLength with hc | hc
    · obtain ⟨b, hp⟩ : ∃ b, s.mem.peek .tx s.txCount = some b :=
        Memory.peek_of_wf hs.memory (Nat.lt_of_lt_of_le hc hs.txBound)
      exact ⟨_, by rw [State.emitByte_next hb hc, hp]; rfl⟩
    · exact ⟨_, State.emitByte_overRead hb hc⟩
  · exact ⟨_, State.emitByte_readState hb⟩

/-- The integrity byte that a check reads is one of the received bytes (R124). -/
theorem State.acceptance_exists {s : State} (hs : s.Inv) (expected : Nat) : ∃ v, s.acceptance expected = some v := by
  unfold State.acceptance
  split
  · exact ⟨_, rfl⟩
  · split
    · rename_i hc
      have hlt : expected < s.mem.rx.length := by
        have := hs.rxBound
        rw [hs.rx_length]
        omega
      rw [verify_of_lt hlt]
      exact ⟨_, rfl⟩
    · exact ⟨_, rfl⟩

/-- MAX_PAYLOAD is at least 4 (R6), so txBuffer has room for the largest payload and its PEC (R7). -/
theorem State.respond_exists {s : State} (hs : s.Inv) {payload : List Byte} (hp : payload.length ≤ 4) :
    ∃ t, s.respond payload = some t := by
  obtain ⟨h4, _, _⟩ := (payloadInRange_iff s.params).1 ((admitted_iff s.params).1 hs.admitted).1
  refine State.respond_of_le ?_
  rw [hs.tx_length, Params.txCap]
  omega

/-- SETCHANNELS reads below rxCount only, and copies as many bytes as the bank has (R51, R151). -/
theorem State.applyChannels_exists {s : State} (hs : s.Inv) (form : Form) : ∃ t, s.applyChannels form = some t := by
  cases form with
  | short => exact ⟨_, s.applyChannels_short⟩
  | long =>
    by_cases hc : s.rxCount = s.params.channels + 2
    · have hroom : s.params.channels + 2 ≤ s.mem.rx.length := by
        rw [hs.rx_length, ← hc]
        exact hs.rxBound
      rw [State.applyChannels_long hc, verify_of_lt (by omega), Option.bind_some]
      split
      · rw [Memory.read_of_le (by rw [Memory.space_rx]; omega), Option.bind_some, Memory.write_of_le]
        · exact ⟨_, rfl⟩
        · rw [Memory.space_bank, hs.bank_length, Nat.zero_add]
          exact List.length_take_le _ _
      · exact ⟨_, rfl⟩
    · exact ⟨_, State.applyChannels_length hc⟩

/-- The largest payload is GET_AIR_TEMP_HUMIDITY's two fields (R74). -/
theorem commandPayload_length_le (snap : Snapshot) (c : Command) : (commandPayload snap c).length ≤ 4 := by
  cases c <;> simp [commandPayload, tempPayload, airPayload, depthPayload, bigEndian]

theorem State.dispatch_exists {s : State} (hs : s.Inv) (c : Command) (form : Form) : ∃ t, s.dispatch c form = some t := by
  cases c with
  | setChannels => exact State.applyChannels_exists hs form
  | getTemp => exact State.respond_exists hs (commandPayload_length_le s.snapshot .getTemp)
  | getAirTempHumidity => exact State.respond_exists hs (commandPayload_length_le s.snapshot .getAirTempHumidity)
  | getDepth => exact State.respond_exists hs (commandPayload_length_le s.snapshot .getDepth)

theorem State.conclude_exists {s : State} (hs : s.Inv) (c : Command) (v : Verdict) : ∃ t, s.conclude c v = some t := by
  cases v with
  | acceptedShort => exact State.dispatch_exists hs c .short
  | acceptedLong => exact State.dispatch_exists hs c .long
  | rejected kind => exact ⟨_, rfl⟩

theorem State.completeMessage_exists {s : State} (hs : s.Inv) : ∃ t, s.completeMessage = some t := by
  unfold State.completeMessage
  split
  · exact ⟨_, rfl⟩
  · obtain ⟨op, hop⟩ : ∃ op, s.mem.peek .rx 0 = some op := Memory.peek_of_wf hs.memory (Nat.succ_pos _)
    rw [hop, Option.bind_some]
    split
    · exact ⟨_, rfl⟩
    · rename_i c _
      obtain ⟨v, hv⟩ := State.acceptance_exists hs (expectedLength s.params c)
      rw [hv, Option.bind_some]
      exact State.conclude_exists hs c v

/-! ### No operation faults -/

theorem finish_ne_fault {o : Option State} (h : ∃ t, o = some t) (r : Fault) : finish o ≠ .fault r := by
  obtain ⟨t, rfl⟩ := h
  exact nofun

theorem State.callByte_ne_fault (s : State) (c : ByteCall) (r : Fault) : s.callByte c ≠ .fault r := by
  unfold State.callByte
  split <;> exact nofun

/-- Append and verify reach only their own operand: a buffer too short is refused (R105). -/
theorem answerAppend_ne_fault (v : Variant) (buf : List Byte) (len : Nat) (s : State) (r : Fault) :
    answerAppend v buf len s ≠ .fault r := by
  unfold answerAppend
  split <;> exact nofun

theorem answerVerify_ne_fault (v : Variant) (buf : List Byte) (len : Nat) (s : State) (r : Fault) :
    answerVerify v buf len s ≠ .fault r := by
  unfold answerVerify
  split <;> exact nofun

theorem execWc_ne_fault {s : State} (hs : s.Inv) (r : Fault) : execWc s ≠ .fault r := by
  unfold execWc
  split
  · exact nofun
  · exact finish_ne_fault (State.completeMessage_exists (hs.answered .none)) r

theorem execAccept_ne_fault {s : State} (hs : s.Inv) (expected : Nat) (r : Fault) : execAccept expected s ≠ .fault r := by
  obtain ⟨v, hv⟩ := State.acceptance_exists hs expected
  exact finish_ne_fault ⟨s.answer (.verdict v), by rw [hv]; rfl⟩ r

theorem execAcquireTemperature_ne_fault (s : State) (r : Fault) : execAcquireTemperature s ≠ .fault r := by
  unfold execAcquireTemperature
  split <;> exact nofun

/-- From a state with the invariant no operation, posted or due, reaches outside an index space (R51). -/
theorem exec_ne_fault {s : State} (hs : s.Inv) (i : Instr) (r : Fault) : exec i s ≠ .fault r := by
  have ha : (s.answer .none).Inv := hs.answered .none
  cases i with
  | rx b => exact finish_ne_fault (State.receive_exists ha b) r
  | wc => exact execWc_ne_fault hs r
  | rd => exact finish_ne_fault (State.emitByte_exists hs) r
  | accept expected => exact execAccept_ne_fault hs expected r
  | setChannels form => exact finish_ne_fault (State.applyChannels_exists ha form) r
  | getTemp => exact finish_ne_fault (State.dispatch_exists ha .getTemp .short) r
  | getAirTempHumidity => exact finish_ne_fault (State.dispatch_exists ha .getAirTempHumidity .short) r
  | getDepth => exact finish_ne_fault (State.dispatch_exists ha .getDepth .short) r
  | appendPec | appendOw => exact answerAppend_ne_fault _ _ _ s r
  | verifyPec | verifyOw => exact answerVerify_ne_fault _ _ _ s r
  | owReset | owWriteBit | owReadBit => exact finish_ne_fault (State.slot_exists hs.scratch_length _) r
  | owWriteByte | owReadByte | skipRom | convertT | readScratchpad => exact s.callByte_ne_fault _ r
  | acquireTemperature => exact execAcquireTemperature_ne_fault s r
  | wr | sp | unrecognized | accumulatePec | crcPec | accumulateOw | crcOw | qerr | clr | en | pub | chan | rst => exact nofun

/-- Settles O50: a step runs an operation taken from the same counters and index spaces, waits, or is refused. -/
theorem stepFormsNoIndexOutOfRange : Obligations.StepFormsNoIndexOutOfRange := by
  intro s r hs
  cases hf : fetch s with
  | run i u =>
    rw [step_of_fetch_run hs.admitted hf]
    exact exec_ne_fault (hs.fetched hf) i r
  | wait u =>
    rw [step_of_fetch_wait hs.admitted hf]
    exact nofun
  | bad e =>
    rw [step_of_fetch_bad hs.admitted hf]
    exact nofun

/-! ### The bus engine and the driver leave each other alone (R233, R238) -/

/-- The one-wire operations (R172 to R177, R77). -/
inductive OneWire : Instr → Prop where
  | reset : OneWire .owReset
  | writeBit (b : Bool) : OneWire (.owWriteBit b)
  | readBit : OneWire .owReadBit
  | writeByte (v : Byte) : OneWire (.owWriteByte v)
  | readByte : OneWire .owReadByte
  | acquire : OneWire .acquireTemperature
  | skipRom : OneWire .skipRom
  | convertT : OneWire .convertT
  | readScratchpad : OneWire .readScratchpad

theorem oneWire_iff (i : Instr) :
    OneWire i ↔ i = .owReset ∨ (∃ b, i = .owWriteBit b) ∨ i = .owReadBit ∨ (∃ v, i = .owWriteByte v) ∨ i = .owReadByte ∨
      i = .acquireTemperature ∨ i = .skipRom ∨ i = .convertT ∨ i = .readScratchpad := by
  constructor
  · intro h
    cases h <;> simp
  · rintro (rfl | ⟨b, rfl⟩ | rfl | ⟨v, rfl⟩ | rfl | rfl | rfl | rfl | rfl) <;> constructor

theorem Slot.instr_oneWire (slot : Slot) : OneWire slot.instr := by
  cases slot <;> constructor

/-- An operation that is neither the driver's nor Reset leaves the driver as it was (R238). -/
theorem exec_busFrame {i : Instr} {s t : State} (h : exec i s = .next t) (hi : ¬ OneWire i) (hr : i ≠ .rst) : BusFrame s t := by
  cases exec_executed h with
  | bus hf => exact hf
  | slot slot he _ => exact absurd (he ▸ slot.instr_oneWire) hi
  | byteCall _ he _ => obtain rfl | ⟨v, rfl⟩ | rfl | rfl | rfl := he <;> exact absurd (by constructor) hi
  | acquisition he _ _ => exact absurd (he ▸ .acquire) hi
  | reset he _ => exact absurd he hr

/-- Settles O56: no bus handler, acceptance check or command is one of the driver's operations, or Reset. -/
theorem busHandlersLeaveTheDriver : Obligations.BusHandlersLeaveTheDriver := by
  intro i s t hi h
  have hw : ¬ OneWire i := by rintro ⟨⟩ <;> simp at hi
  have hr : i ≠ .rst := by rintro rfl; simp at hi
  have hf := exec_busFrame h hw hr
  exact ⟨hf.driver, hf.scratch, hf.line⟩

/-- The answer is none of the elements the driver's frame speaks of. -/
theorem DriverFrame.of_answer {s t : State} {a : Answer} (h : DriverFrame (s.answer a) t) : DriverFrame s t :=
  h.after (by constructor <;> rfl) rfl rfl rfl rfl rfl

theorem State.callByte_frame {s t : State} {c : ByteCall} (h : s.callByte c = .next t) : DriverFrame s t := by
  obtain ⟨_, rfl⟩ := State.callByte_cases h
  exact (DriverFrame.moved (.inl rfl)).of_answer

theorem execAcquireTemperature_frame {s t : State} (h : execAcquireTemperature s = .next t) : DriverFrame s t := by
  obtain ⟨_, rfl⟩ := execAcquireTemperature_cases h
  exact (DriverFrame.moved (.inl rfl)).of_answer

/-- A one-wire operation is a slot, or starts a byte operation or an acquisition: each keeps to the driver's own elements. -/
theorem OneWire.driverFrame {i : Instr} {s t : State} (hi : OneWire i) (h : exec i s = .next t) : DriverFrame s t := by
  cases hi with
  | reset | writeBit | readBit => exact State.slot_frame (finish_eq_next.1 h)
  | writeByte | readByte | skipRom | convertT | readScratchpad => exact State.callByte_frame h
  | acquire => exact execAcquireTemperature_frame h

/-- The one byte the driver may write is one of scratch (R60). -/
theorem DriverFrame.sameBytesBut {s t : State} (h : DriverFrame s t) : SameBytesBut .scratch s t := by
  intro sp k hne
  obtain hm | ⟨_, _, hm⟩ := h.mem
  · rw [hm]
  · exact Memory.write_peek_other hm hne k

/-- Settles O57: what the driver's frame leaves as it was. -/
theorem driverLeavesTheBus : Obligations.DriverLeavesTheBus := by
  intro i s t hi h
  have hf := ((oneWire_iff i).2 hi).driverFrame h
  exact ⟨hf.bus, hf.snapshot, hf.sameBytesBut⟩

/-! ### The commands that fail (R155, R231) -/

theorem exec_unrecognized (s : State) : exec .unrecognized s = .next ((s.answer .none).fail .unknownCommand) := rfl

/-- SETCHANNELS posted alone on another count than its long form's (log 21). -/
theorem exec_setChannels_length {s : State} (h : s.rxCount ≠ s.params.channels + 2) :
    exec (.setChannels .long) s = .next ((s.answer .none).fail .protocolLength) :=
  finish_eq_next.2 (State.applyChannels_length (s := s.answer .none) h)

/-- Settles O21: both run the failure procedure, which records no kind (R231). -/
theorem unrecognizedCommandFails : Obligations.UnrecognizedCommandFails :=
  fun s => ⟨exec_unrecognized s, exec_setChannels_length⟩

end Sys2Proof.Machine

/-! # The encoding: the stream form and the command byte

The decoder answers exactly what the encoder writes, in both directions (log 1); then the table's words (R77) and the first byte of a message
(R72, R75). -/

namespace Sys2Proof

/-- Settles O58: the operand bytes of each operation are read back by that operation's own readers. -/
theorem decodeReadsBackEncode : Obligations.DecodeReadsBackEncode :=
  fun _ rest hw => decode_encode_wellFormed hw rest

/-! ### What an operand reader that answers has taken -/

/-- Two joined bytes are the two bytes of a 16-bit operand. -/
theorem halfBytes_append (hi lo : Byte) : halfBytes (hi ++ lo) = [hi, lo] := by
  have hhi : (hi ++ lo : Half).extractLsb' 8 8 = hi := BitVec.extractLsb'_append_eq_left
  have hlo : (hi ++ lo : Half).extractLsb' 0 8 = lo := BitVec.extractLsb'_append_eq_right
  rw [halfBytes, hhi, hlo]

/-- A reader of a 16-bit operand that answers has taken its two bytes. -/
theorem takeHalf_ok {bs : List Byte} {k : Half → List Byte → Decoded} {r : Instr × List Byte} (h : takeHalf bs k = .ok r) :
    ∃ v rest, bs = halfBytes v ++ rest ∧ k v rest = .ok r := by
  obtain ⟨hi, _, rfl, hlo⟩ := takeByte_ok h
  obtain ⟨lo, rest, rfl, hk⟩ := takeByte_ok hlo
  exact ⟨hi ++ lo, rest, by rw [halfBytes_append]; rfl, hk⟩

/-- A reader of a telemetry record that answers has taken the record's bytes. -/
theorem takeSnapshot_ok {bs : List Byte} {k : Snapshot → List Byte → Decoded} {r : Instr × List Byte}
    (h : takeSnapshot bs k = .ok r) : ∃ snap rest, bs = snapshotBytes snap ++ rest ∧ k snap rest = .ok r := by
  obtain ⟨int, _, rfl, hint⟩ := takeByte_ok h
  obtain ⟨frac, _, rfl, hfrac⟩ := takeHalf_ok hint
  obtain ⟨raw, _, rfl, hraw⟩ := takeHalf_ok hfrac
  obtain ⟨airTemp, _, rfl, hairTemp⟩ := takeHalf_ok hraw
  obtain ⟨humidity, _, rfl, hhumidity⟩ := takeHalf_ok hairTemp
  obtain ⟨depth, rest, rfl, hk⟩ := takeHalf_ok hhumidity
  exact ⟨_, rest, by simp only [snapshotBytes, List.cons_append, List.append_assoc], hk⟩

/-- A reader of a buffer operand that answers has taken a buffer with a byte at `len`. -/
theorem takeBuffer_ok {kind : Byte} {bs rest : List Byte} {mk : List Byte → Nat → Instr} {i : Instr}
    (h : takeBuffer kind bs mk = .ok (i, rest)) :
    ∃ buf len, bs = bufferBytes buf len ++ rest ∧ (lengthFits buf.length && bufferFits buf len) = true ∧ i = mk buf len := by
  obtain ⟨len, _, rfl, hlen⟩ := takeByte_ok h
  obtain ⟨buf, _, rfl, hsize, hbuf⟩ := takeBytes_ok hlen
  split at hbuf
  · rename_i hfits
    cases hbuf
    refine ⟨buf, len.toNat, ?_, ?_, rfl⟩
    · rw [bufferBytes, lengthByte_of_toNat]
      rfl
    · exact Bool.and_eq_true_iff.2 ⟨decide_eq_true hsize, hfits⟩
  · cases hbuf

/-! ### Each stream has one reading -/

/-- That `i` is a well-formed operation of the kind byte `kind`, whose operand bytes stand before `rest` in `bs`. -/
structure ReadFrom (kind : Byte) (bs : List Byte) (i : Instr) (rest : List Byte) : Prop where
  wellFormed : i.wellFormed = true
  kind_eq : kindByte i = kind
  bytes_eq : operandBytes i ++ rest = bs

/-- The kind byte of an answer is the number its arm of the decoder stands at. -/
theorem kindByte_eq {kind : Byte} {n : Nat} {i : Instr} (hk : kind.toNat = n) (hi : (kindByte i).toNat = n) : kindByte i = kind :=
  BitVec.eq_of_toNat_eq (hi.trans hk.symm)

/-- What the operand readers answer is read from the bytes they were given. -/
theorem decodeOperands_ok {kind : Byte} {bs rest : List Byte} {i : Instr} (h : decodeOperands kind bs = .ok (i, rest)) :
    ReadFrom kind bs i rest := by
  unfold decodeOperands at h
  split at h <;> rename_i hk
  -- rx, owWriteByte
  case h_2 | h_23 =>
    obtain ⟨b, _, rfl, hr⟩ := takeByte_ok h
    cases hr
    exact ⟨rfl, kindByte_eq hk rfl, rfl⟩
  -- accept
  case h_6 =>
    obtain ⟨l, _, rfl, hr⟩ := takeByte_ok h
    cases hr
    exact ⟨decide_eq_true l.isLt, kindByte_eq hk rfl, by rw [operandBytes, lengthByte_of_toNat]; rfl⟩
  -- setChannels
  case h_7 =>
    obtain ⟨long, _, rfl, hr⟩ := takeFlag_ok h
    cases hr
    cases long <;> exact ⟨rfl, kindByte_eq hk rfl, rfl⟩
  -- accumulatePec, accumulateOw
  case h_12 | h_16 =>
    obtain ⟨s, _, rfl, hs⟩ := takeByte_ok h
    obtain ⟨b, _, rfl, hr⟩ := takeByte_ok hs
    cases hr
    exact ⟨rfl, kindByte_eq hk rfl, rfl⟩
  -- crcPec, crcOw
  case h_13 | h_17 =>
    obtain ⟨bytes, _, rfl, hsize, hr⟩ := takeBytes_ok h
    cases hr
    exact ⟨decide_eq_true hsize, kindByte_eq hk rfl, rfl⟩
  -- append and verify
  case h_14 | h_15 | h_18 | h_19 =>
    obtain ⟨buf, len, rfl, hfits, rfl⟩ := takeBuffer_ok h
    exact ⟨hfits, kindByte_eq hk rfl, rfl⟩
  -- owWriteBit, en
  case h_21 | h_31 =>
    obtain ⟨v, _, rfl, hr⟩ := takeFlag_ok h
    cases hr
    exact ⟨rfl, kindByte_eq hk rfl, rfl⟩
  -- pub
  case h_32 =>
    obtain ⟨snap, _, rfl, hr⟩ := takeSnapshot_ok h
    cases hr
    exact ⟨rfl, kindByte_eq hk rfl, rfl⟩
  -- no operation
  case h_35 => cases h
  -- the operations without operands
  all_goals
    cases h
    exact ⟨rfl, kindByte_eq hk rfl, rfl⟩

/-- Settles O59: the kind byte, then what its readers have taken. -/
theorem encodeRebuildsDecoded : Obligations.EncodeRebuildsDecoded := by
  intro bs i rest h
  obtain ⟨kind, operands, rfl, h⟩ := takeByte_ok h
  obtain ⟨hw, hkind, hbytes⟩ := decodeOperands_ok h
  exact ⟨hw, by rw [encode, hkind, List.cons_append, hbytes]⟩

/-! ### The words of the opcode table (R77) -/

/-- A one-byte word that is the kind byte of an operation without operands is that operation. -/
theorem decodeTableWord_kindByte {i : Instr} (hw : i.wellFormed = true) (ho : operandBytes i = []) :
    decodeTableWord 8 (kindByte i).toNat = some i := by
  have hword : tableWordBytes 8 (kindByte i).toNat = encode i ++ List.replicate 257 0 := by
    show BitVec.ofNat 8 ((kindByte i).toNat / 1) :: List.replicate 257 0 = _
    rw [Nat.div_one, BitVec.ofNat_toNat, BitVec.setWidth_eq, encode, ho, List.singleton_append]
  rw [decodeTableWord, hword, decode_encode_wellFormed hw]

/-- Settles O60: the three words are the kind bytes of operations without operands, and 0x00 is no kind byte. -/
theorem functionCodeWordsDecode : Obligations.FunctionCodeWordsDecode :=
  ⟨decodeTableWord_kindByte (i := .skipRom) rfl rfl, decodeTableWord_kindByte (i := .convertT) rfl rfl,
    decodeTableWord_kindByte (i := .readScratchpad) rfl rfl, rfl⟩

end Sys2Proof

namespace Sys2Proof.Machine

/-! ### The command a first byte selects (R72, R75) -/

/-- Distinct OP_* values: each command's own byte selects it. -/
theorem commandOf_opcodeOf {p : Params} (h : p.opcodesDistinct = true) (c : Command) : commandOf p (opcodeOf p c) = some c := by
  obtain ⟨h12, h13, h14, h23, h24, h34⟩ := (opcodesDistinct_iff p).1 h
  cases c with
  | setChannels => exact if_pos rfl
  | getTemp => simp only [commandOf, opcodeOf, if_neg h12.symm, if_true]
  | getAirTempHumidity => simp only [commandOf, opcodeOf, if_neg h13.symm, if_neg h23.symm, if_true]
  | getDepth => simp only [commandOf, opcodeOf, if_neg h14.symm, if_neg h24.symm, if_neg h34.symm, if_true]

/-- Only a command's own byte selects it. -/
theorem eq_opcodeOf_of_commandOf {p : Params} {op : Byte} {c : Command} (h : commandOf p op = some c) : op = opcodeOf p c := by
  unfold commandOf at h
  split_ifs at h <;> (cases h; assumption)

theorem commandOf_eq_some_iff {p : Params} (h : p.opcodesDistinct = true) (op : Byte) (c : Command) :
    commandOf p op = some c ↔ op = opcodeOf p c := by
  refine ⟨eq_opcodeOf_of_commandOf, ?_⟩
  rintro rfl
  exact commandOf_opcodeOf h c

/-- An admitted configuration has distinct OP_* values (R6). -/
theorem opcodesDistinct_of_admitted {p : Params} (h : p.admitted = true) : p.opcodesDistinct = true :=
  ((admitted_iff p).1 h).2.1

/-- Settles O18: a byte that selects nothing is the byte of no command. -/
theorem commandByteSelectsOneCommand : Obligations.CommandByteSelectsOneCommand := by
  intro p op ha
  have hiff := commandOf_eq_some_iff (opcodesDistinct_of_admitted ha) op
  refine ⟨hiff, ?_⟩
  simp only [Option.eq_none_iff_forall_ne_some, ne_eq, hiff]

/-! ### The function codes as bytes (R77) -/

/-- A driver at rest starts the byte operation it is asked for (R175, R176). -/
theorem State.callByte_of_not_busy {s : State} (h : s.driverBusy = false) (c : ByteCall) :
    s.callByte c = .next ((s.answer .none).startByteCall c) :=
  if_neg (Bool.eq_false_iff.1 h)

/-- Settles O31: each function code and writeByte of its byte start the same call. -/
theorem functionCodesSendTheirBytes : Obligations.FunctionCodesSendTheirBytes := by
  intro s h
  have starts := State.callByte_of_not_busy h
  exact ⟨⟨_, starts (.write skipRomCode), starts (.write 0xCC)⟩, ⟨_, starts (.write convertTCode), starts (.write 0x44)⟩,
    ⟨_, starts (.write readScratchpadCode), starts (.write 0xBE)⟩⟩

end Sys2Proof.Machine

/-! # Whole messages and whole responses (R73, R74, R81)

A WRITE is WR, one RX per byte and WC. `Received` says what holds between its events; WriteComplete then finds the message it names, and a READ
emits the response it prepared. -/

namespace Sys2Proof.Machine

theorem runOps_cons {s t : State} {i : Instr} (is : List Instr) (h : exec i s = .next t) : runOps (i :: is) s = runOps is t := by
  simp only [runOps, h]

/-! ### Receiving a message (R121, R122) -/

/-- `t` is a state with the bytes of `msg` received since the message began at `s`. -/
structure Received (s : State) (msg : List Byte) (t : State) : Prop where
  inv : t.Inv
  busState : t.busState = .writeRequested
  count : t.rxCount = msg.length
  message : msg <+: t.mem.rx
  params : t.params = s.params
  bank : t.mem.bank = s.mem.bank
  snapshot : t.snapshot = s.snapshot
  error : t.error = s.error

theorem Received.answered {s t : State} {msg : List Byte} (h : Received s msg t) (a : Answer) : Received s msg (t.answer a) :=
  ⟨h.inv.answered a, h.busState, h.count, h.message, h.params, h.bank, h.snapshot, h.error⟩

/-- A WriteRequested that is taken begins an empty message (R121). -/
theorem exec_wr_received {s : State} (hs : s.Inv) (hb : s.busState = .idle) (he : s.enable = true) :
    ∃ t, exec .wr s = .next t ∧ Received s [] t := by
  have hstart : (s.answer .none).startsMessage = true := (State.startsMessage_iff _).2 ⟨he, .inl hb⟩
  refine ⟨{ s.answer .none with busState := .writeRequested, rxCount := 0 }, ?_, ?_⟩
  · exact congrArg Host.Outcome.next (if_pos hstart)
  · exact ⟨⟨hs.admitted, hs.memory, Nat.zero_le _, hs.txSent, hs.txBound, nofun⟩, rfl, rfl, ⟨_, rfl⟩, rfl, rfl, rfl, rfl⟩

/-- A byte written just after the bytes a space opens with prolongs them. -/
theorem Memory.write_isPrefix {m m' : Memory} {sp : Space} {bs : List Byte} {b : Byte} (hp : bs <+: m.space sp)
    (h : m.write sp bs.length [b] = some m') : bs ++ [b] <+: m'.space sp := by
  obtain ⟨_, rfl⟩ := Memory.write_cases h
  obtain ⟨rest, hrest⟩ := hp
  rw [Memory.space_setSpace_self, ← hrest, List.take_left]
  exact ⟨_, rfl⟩

/-- A ByteReceived with room left stores its byte (R122). -/
theorem exec_rx_received {s t : State} {msg : List Byte} (h : Received s msg t) (hroom : msg.length < s.params.rxCap) (b : Byte) :
    ∃ u, exec (.rx b) t = .next u ∧ Received s (msg ++ [b]) u := by
  have ha := h.answered .none
  have hcount : (t.answer .none).rxCount < (t.answer .none).params.rxCap := by rw [ha.count, ha.params]; exact hroom
  obtain ⟨u, hu⟩ := State.receive_exists ha.inv b
  refine ⟨u, finish_eq_next.2 hu, ?_⟩
  rw [State.receive_stored ha.busState hcount] at hu
  obtain ⟨m, hm, rfl⟩ := Option.map_eq_some_iff.1 hu
  exact {
    inv := ⟨ha.inv.admitted, Memory.write_keeps_wf hm ha.inv.memory, hcount, ha.inv.txSent, ha.inv.txBound, ha.inv.response⟩
    busState := ha.busState
    count := by rw [List.length_append, ← ha.count]; rfl
    message := Memory.write_isPrefix ha.message (ha.count ▸ hm)
    params := ha.params
    bank := (Memory.write_space_other hm (by decide : Space.bank ≠ .rx)).trans ha.bank
    snapshot := ha.snapshot
    error := ha.error }

/-- Bytes that fit rxBuffer are received one after another. -/
theorem runOps_rx_received {s t : State} {msg bytes : List Byte} (h : Received s msg t)
    (hroom : msg.length + bytes.length ≤ s.params.rxCap) (ops : List Instr) :
    ∃ u, runOps (bytes.map .rx ++ ops) t = runOps ops u ∧ Received s (msg ++ bytes) u := by
  induction bytes generalizing msg t with
  | nil => exact ⟨t, rfl, by rwa [List.append_nil]⟩
  | cons b bytes ih =>
    rw [List.length_cons] at hroom
    obtain ⟨t', ht, h'⟩ := exec_rx_received h (by omega) b
    obtain ⟨u, hu, hr⟩ := ih h' (by rw [List.length_append, List.length_singleton]; omega)
    refine ⟨u, ?_, by rwa [List.append_assoc] at hr⟩
    rw [List.map_cons, List.cons_append, runOps_cons _ ht, hu]

theorem exec_wc_eq {s : State} (h : s.busState = .writeRequested) : exec .wc s = finish (s.answer .none).completeMessage :=
  if_neg (not_not.2 h)

/-- A whole WRITE that fits rxBuffer is the completion of the message it carries (R81). -/
theorem runOps_writeOps {s : State} {msg : List Byte} (hs : s.Inv) (hb : s.busState = .idle) (he : s.enable = true)
    (hroom : msg.length ≤ s.params.rxCap) : ∃ u, Received s msg u ∧ runOps (writeOps msg) s = finish u.completeMessage := by
  obtain ⟨t, ht, h0⟩ := exec_wr_received hs hb he
  obtain ⟨u, hu, hr⟩ := runOps_rx_received (bytes := msg) h0 (by rwa [List.length_nil, Nat.zero_add]) [.wc]
  refine ⟨u.answer .none, hr.answered .none, ?_⟩
  rw [writeOps, runOps_cons _ ht, hu, runOps, exec_wc_eq hr.busState]
  cases (u.answer .none).completeMessage <;> rfl

/-! ### Checking a message (R123, R124) -/

/-- The check of a buffer that opens with some bytes and a check byte (R106). -/
theorem verify_of_isPrefix {mode : IntegrityMode} {v : Variant} {buf bytes : List Byte} {x : Byte} (h : bytes ++ [x] <+: buf) :
    verify mode v buf bytes.length = some (decide (crc mode v bytes = x)) := by
  obtain ⟨rest, rfl⟩ := h
  simp [verify]

theorem State.acceptance_short {s : State} {expected : Nat} (h : s.rxCount = expected) : s.acceptance expected = some .acceptedShort :=
  if_pos h

/-- One byte more than expected is the integrity byte of those before it (R124). -/
theorem State.acceptance_long {s : State} {bytes : List Byte} {x : Byte} (hcount : s.rxCount = bytes.length + 1)
    (h : bytes ++ [x] <+: s.mem.rx) :
    s.acceptance bytes.length =
      some (if crc s.params.integrityMode .pec bytes = x then .acceptedLong else .rejected .integrity) := by
  rw [State.acceptance, if_neg (by omega), if_pos hcount, verify_of_isPrefix h, Option.map_some]
  simp only [decide_eq_true_eq]

/-- A message whose first byte selects a command is checked against that command's length (R123). -/
theorem Received.completeMessage_eq {s u : State} {args : List Byte} {c : Command} (ha : s.params.admitted = true)
    (h : Received s (opcodeOf s.params c :: args) u) :
    u.completeMessage = (u.acceptance (expectedLength s.params c)).bind fun v => u.conclude c v := by
  have hne : u.rxCount ≠ 0 := by rw [h.count]; exact Nat.succ_ne_zero _
  have hop : u.mem.peek .rx 0 = some (opcodeOf s.params c) := by
    obtain ⟨rest, hrest⟩ := h.message
    rw [Memory.peek, Memory.space_rx, ← hrest]
    rfl
  rw [State.completeMessage, if_neg hne, hop, Option.bind_some, h.params, commandOf_opcodeOf (opcodesDistinct_of_admitted ha)]

/-! ### Reading a response (R125) -/

/-- `bytes` are the next bytes of a response that is being read. -/
structure Responding (bytes : List Byte) (t : State) : Prop where
  busState : t.busState = .readRequested
  bytes_le : t.txCount + bytes.length ≤ t.txLength
  next : bytes <+: t.mem.tx.drop t.txCount

/-- A ReadRequested emits the next byte of the response (R125). -/
theorem exec_rd_responding {t : State} {b : Byte} {bytes : List Byte} (h : Responding (b :: bytes) t) :
    ∃ u, exec .rd t = .next u ∧ u.result = .byte b ∧ Responding bytes u ∧ u.error = t.error := by
  obtain ⟨hb, hle, rest, hrest⟩ := h
  rw [List.length_cons] at hle
  have hdrop : t.mem.tx.drop (t.txCount + 1) = bytes ++ rest := by
    rw [← List.tail_drop, ← hrest]
    rfl
  have hpeek : t.mem.peek .tx t.txCount = some b := by
    rw [Memory.peek, Memory.space_tx, ← List.head?_drop, ← hrest]
    rfl
  refine ⟨{ t.answer (.byte b) with txCount := t.txCount + 1 }, ?_, rfl, ⟨hb, ?_, rest, hdrop.symm⟩, rfl⟩
  · exact finish_eq_next.2 (by rw [State.emitByte_next hb (by omega), hpeek, Option.map_some])
  · show t.txCount + 1 + bytes.length ≤ t.txLength
    omega

/-- A READ of no more bytes than the response has left emits them, and leaves `error`. -/
theorem Responding.emits {t : State} {bytes : List Byte} (h : Responding bytes t) :
    emittedBytes bytes.length t = some bytes ∧
      ∃ u, runOps (readOps bytes.length) t = .next u ∧ u.error = t.error ∧ u.busState = .readRequested := by
  induction bytes generalizing t with
  | nil => exact ⟨rfl, t, rfl, rfl, h.busState⟩
  | cons b bytes ih =>
    obtain ⟨t', ht, hresult, h', herror⟩ := exec_rd_responding h
    obtain ⟨hemit, u, hu, hue, hub⟩ := ih h'
    refine ⟨?_, u, ?_, hue.trans herror, hub⟩
    · rw [List.length_cons]
      simp only [emittedBytes, ht, hresult, hemit, Option.map_some]
    · rw [List.length_cons, readOps, List.replicate_succ, runOps_cons _ ht]
      exact hu

/-! ### A GET_* transaction (R152 to R154, R156) -/

/-- A prepared response is read from its first byte: the payload, then its PEC (R52, R74). -/
theorem State.respond_responding {s t : State} {payload : List Byte} (h : s.respond payload = some t) :
    Responding (payload ++ [crc s.params.integrityMode .pec payload]) t ∧ t.error = s.error ∧ t.snapshot = s.snapshot := by
  obtain ⟨m, hm, rfl⟩ := State.respond_cases h
  obtain ⟨_, rfl⟩ := Memory.write_cases hm
  refine ⟨⟨rfl, ?_, ⟨_, rfl⟩⟩, rfl, rfl⟩
  rw [List.length_append, List.length_singleton, Nat.zero_add]

theorem State.dispatch_get {s : State} {c : Command} (h : c ≠ .setChannels) (form : Form) :
    s.dispatch c form = s.respond (commandPayload s.snapshot c) := by
  cases c with
  | setChannels => exact absurd rfl h
  | getTemp | getAirTempHumidity | getDepth => rfl

theorem expectedLength_get (p : Params) {c : Command} (h : c ≠ .setChannels) : expectedLength p c = 1 := by
  cases c with
  | setChannels => exact absurd rfl h
  | getTemp | getAirTempHumidity | getDepth => rfl

/-- Both forms of a GET_* message prepare the same response (R73, R123). -/
theorem Received.completeMessage_get {s u : State} {msg : List Byte} {c : Command} (ha : s.params.admitted = true)
    (hc : c ≠ .setChannels)
    (hmsg : msg = [opcodeOf s.params c] ∨ msg = [opcodeOf s.params c, crc s.params.integrityMode .pec [opcodeOf s.params c]])
    (h : Received s msg u) : u.completeMessage = u.respond (commandPayload u.snapshot c) := by
  obtain rfl | rfl := hmsg
  · have hshort : u.acceptance 1 = some .acceptedShort := State.acceptance_short h.count
    rw [h.completeMessage_eq ha, expectedLength_get _ hc, hshort]
    exact State.dispatch_get hc .short
  · have hlong : u.acceptance 1 = some .acceptedLong := by
      refine (State.acceptance_long (bytes := [opcodeOf s.params c]) h.count h.message).trans ?_
      rw [h.params, if_pos rfl]
    rw [h.completeMessage_eq ha, expectedLength_get _ hc, hlong]
    exact State.dispatch_get hc .long

/-- Settles O22: the message prepares the response, and the READ emits it. -/
theorem getTransactionAnswersSnapshot : Obligations.GetTransactionAnswersSnapshot := by
  intro s c msg hs hb he hc hmsg
  have hroom : msg.length ≤ s.params.rxCap := by
    rw [Params.rxCap]
    obtain rfl | rfl := hmsg <;> simp
  obtain ⟨u, hu, hrun⟩ := runOps_writeOps hs hb he hroom
  obtain ⟨t, ht⟩ := State.respond_exists hu.inv (commandPayload_length_le u.snapshot c)
  obtain ⟨hresp, herror, hsnap⟩ := State.respond_responding ht
  rw [hu.completeMessage_get hs.admitted hc hmsg, ht] at hrun
  rw [hu.params, hu.snapshot] at hresp
  obtain ⟨hemit, v, hv, hve, hvb⟩ := hresp.emits
  rw [List.length_append, List.length_singleton] at hemit hv
  have herr : t.error = s.error := herror.trans hu.error
  exact ⟨t, hrun, hresp.busState, herr, hsnap.trans hu.snapshot, ⟨v, hv, hve.trans herr, hvb⟩, hemit⟩

/-! ### A SETCHANNELS message (R151) -/

/-- Without its integrity byte the message has the expected length, and SETCHANNELS refuses it (R151). -/
theorem Received.completeMessage_channels_short {s u : State} {vals : List Byte} (ha : s.params.admitted = true)
    (hlen : vals.length = s.params.channels) (h : Received s (s.params.opSetChannels :: vals) u) :
    u.completeMessage = some (u.fail .integrity) := by
  have hcount : u.rxCount = expectedLength s.params .setChannels := by
    rw [h.count, List.length_cons, hlen, Nat.add_comm]
    rfl
  rw [h.completeMessage_eq (c := .setChannels) ha, State.acceptance_short hcount]
  rfl

/-- The long form on its own message: the bank takes the intensities exactly when the check holds (R151). -/
theorem Received.applyChannels_long {s u : State} {vals : List Byte} {x : Byte} (hlen : vals.length = s.params.channels)
    (h : Received s (s.params.opSetChannels :: (vals ++ [x])) u)
    (hx : x = crc s.params.integrityMode .pec (s.params.opSetChannels :: vals)) :
    ∃ m, u.applyChannels .long = some { u with mem := m, busState := .idle } ∧ m.bank = vals := by
  have hcount : u.rxCount = u.params.channels + 2 := by
    rw [h.count, h.params, ← hlen]
    simp
  have hsize : (s.params.opSetChannels :: vals).length = 1 + u.params.channels := by
    rw [h.params, ← hlen, List.length_cons, Nat.add_comm]
  have hverify : verify u.params.integrityMode .pec u.mem.rx (1 + u.params.channels) = some true := by
    rw [← hsize, verify_of_isPrefix h.message, h.params, hx, decide_eq_true rfl]
  have hread : u.mem.read .rx 1 u.params.channels = some vals := by
    obtain ⟨rest, hrest⟩ := h.message
    rw [h.params, ← hlen]
    rw [Memory.read_of_le (by simp [← hrest]; omega)]
    simp [← hrest]
  have hbank : (u.mem.space .bank).length = vals.length := by
    rw [Memory.space_bank, h.inv.bank_length, h.params, hlen]
  refine ⟨u.mem.setSpace .bank vals, ?_, rfl⟩
  rw [State.applyChannels_long hcount, hverify, Option.bind_some, if_pos rfl, hread, Option.bind_some,
    Memory.write_of_le (by rw [hbank, Nat.zero_add]), List.take_zero, List.nil_append, Nat.zero_add, ← hbank, List.drop_length,
    List.append_nil, Option.map_some]

/-- A SETCHANNELS message with a byte after its intensities is accepted exactly when that byte is their PEC (R123, R124). -/
theorem Received.completeMessage_channels_long {s u : State} {vals : List Byte} {x : Byte} (ha : s.params.admitted = true)
    (hlen : vals.length = s.params.channels) (h : Received s (s.params.opSetChannels :: (vals ++ [x])) u) :
    u.completeMessage = if crc s.params.integrityMode .pec (s.params.opSetChannels :: vals) = x then u.applyChannels .long
      else some (u.fail .integrity) := by
  have hsize : expectedLength s.params .setChannels = (s.params.opSetChannels :: vals).length := by
    rw [expectedLength, List.length_cons, hlen, Nat.add_comm]
  have hcount : u.rxCount = (s.params.opSetChannels :: vals).length + 1 := by
    rw [h.count]
    simp
  rw [h.completeMessage_eq (c := .setChannels) ha, hsize, State.acceptance_long hcount h.message, h.params, Option.bind_some]
  split <;> rfl

/-- RX_CAP holds a SETCHANNELS message with its integrity byte (R7). -/
theorem channels_add_two_le_rxCap {p : Params} (h : p.admitted = true) : p.channels + 2 ≤ p.rxCap := by
  obtain ⟨_, hchannels, _⟩ := (payloadInRange_iff p).1 ((admitted_iff p).1 h).1
  rw [Params.rxCap]
  omega

/-- Settles O23: the right integrity byte, a wrong one, and none. -/
theorem setChannelsMessageNeedsItsPec : Obligations.SetChannelsMessageNeedsItsPec := by
  intro s vals x hs hb he hlen
  have hroom := channels_add_two_le_rxCap hs.admitted
  constructor
  · obtain ⟨u, hu, hrun⟩ := runOps_writeOps (msg := s.params.opSetChannels :: (vals ++ [x])) hs hb he (by simp [hlen]; omega)
    rw [hu.completeMessage_channels_long hs.admitted hlen] at hrun
    by_cases hx : crc s.params.integrityMode .pec (s.params.opSetChannels :: vals) = x
    · obtain ⟨m, hm, hbank⟩ := hu.applyChannels_long hlen hx.symm
      rw [if_pos hx, hm] at hrun
      exact ⟨_, hrun, rfl, fun _ => ⟨hbank, hu.error⟩, fun hne => absurd hx.symm hne⟩
    · rw [if_neg hx] at hrun
      exact ⟨_, hrun, rfl, fun heq => absurd heq.symm hx, fun _ => ⟨hu.bank, rfl⟩⟩
  · obtain ⟨u, hu, hrun⟩ := runOps_writeOps (msg := s.params.opSetChannels :: vals) hs hb he (by rw [List.length_cons, hlen]; omega)
    rw [hu.completeMessage_channels_short hs.admitted hlen] at hrun
    exact ⟨_, hrun, rfl, hu.bank, rfl⟩

end Sys2Proof.Machine

/-! # The slots of an acquisition (R170, R177)

One lemma per kind of position: a reset slot, a bit of a function code, a poll, a bit of the scratchpad. -/

namespace Sys2Proof.Machine

/-- The positions that write a function code (R77, R177): the code, and the position after its eighth bit. -/
inductive WritesCode : OwSeq → Byte → OwSeq → Prop where
  | skip1 : WritesCode .skip1 0xCC .convert
  | convert : WritesCode .convert 0x44 .poll
  | skip2 : WritesCode .skip2 0xCC .readCmd
  | readCmd : WritesCode .readCmd 0xBE .readSp

theorem WritesCode.byteCall {s : State} {q : OwSeq} {v : Byte} (h : WritesCode s.owSeq v q) : s.byteCall = some (.write v) := by
  unfold State.byteCall
  generalize s.owSeq = p at h
  cases h <;> rfl

/-- After its eighth bit a function code leads to the next position, with `bitIndex` as it is. -/
theorem WritesCode.afterByte {s : State} {q : OwSeq} {v : Byte} (h : WritesCode s.owSeq v q) :
    ∃ t, s.afterByte = some t ∧ t.bitIndex = s.bitIndex ∧ t.owSeq = q := by
  unfold State.afterByte
  generalize s.owSeq = p at h
  cases h <;> exact ⟨_, rfl, rfl, rfl⟩

/-- A bit of a function code: least significant bit first, and after the eighth the next position (R78, R175). -/
theorem WritesCode.slot {s t : State} {q : OwSeq} {v : Byte} {slot : Slot} (h : WritesCode s.owSeq v q)
    (hn : s.nextSlot = some slot) (ht : s.slot slot = some t) :
    slot = .write (v.getLsbD s.bitIndex) ∧ t.bitIndex = s.bitIndex + 1 ∧ t.owSeq = if s.bitIndex = 7 then q else s.owSeq := by
  have hw := nextSlot_of_write h.byteCall
  obtain rfl : slot = .write (wireBit v s.bitIndex) := Option.some.inj (hn.symm.trans hw)
  rw [slot_write_eq hw, State.afterBit] at ht
  by_cases hb : s.bitIndex = 7
  · obtain ⟨u, hu, hbit, hseq⟩ :=
      WritesCode.afterByte (s := { s with owDrive := .released, result := .none, bitIndex := 0 }) h
    rw [if_pos (by exact hb), hu] at ht
    cases ht
    exact ⟨rfl, by rw [hbit, hb]; rfl, by rw [hseq, if_pos hb]⟩
  · rw [if_neg (by exact hb)] at ht
    cases ht
    exact ⟨rfl, rfl, (if_neg hb).symm⟩

/-- A reset slot that is due moves the sequencer from its own position (R172). -/
theorem slot_reset_moves {s t : State} {slot : Slot} (hr : s.nextSlot = some .reset) (hn : s.nextSlot = some slot)
    (ht : s.slot slot = some t) :
    slot = .reset ∧ ∃ u : State, u.owSeq = s.owSeq ∧ u.afterReset (!s.sensorAnswer) = some t := by
  obtain rfl : slot = .reset := Option.some.inj (hn.symm.trans hr)
  rw [slot_reset_eq hr] at ht
  refine ⟨rfl, _, ?_, ht⟩
  rw [State.countSample_cases]

/-- The reset slot at RESET1: presence goes on, its absence ends the acquisition (R178). -/
theorem slot_reset1 {s t : State} {slot : Slot} (hq : s.owSeq = .reset1) (hn : s.nextSlot = some slot)
    (ht : s.slot slot = some t) :
    slot = .reset ∧ t.owSeq = (if s.sensorAnswer then .done else .skip1) ∧ (s.sensorAnswer = false → t.bitIndex = 0) := by
  obtain ⟨rfl, u, hu, ht⟩ := slot_reset_moves (by simp only [State.nextSlot, hq]) hn ht
  simp only [State.afterReset, hu.trans hq] at ht
  cases ha : s.sensorAnswer <;> (rw [ha] at ht; cases ht; exact ⟨rfl, rfl, by simp⟩)

/-- The reset slot at RESET2, whose presence is not looked at (R177). -/
theorem slot_reset2 {s t : State} {slot : Slot} (hq : s.owSeq = .reset2) (hn : s.nextSlot = some slot)
    (ht : s.slot slot = some t) : slot = .reset ∧ t.owSeq = .skip2 ∧ t.bitIndex = 0 := by
  obtain ⟨rfl, u, hu, ht⟩ := slot_reset_moves (by simp only [State.nextSlot, hq]) hn ht
  simp only [State.afterReset, hu.trans hq] at ht
  cases ht
  exact ⟨rfl, rfl, rfl⟩

/-- The reset slot at RESET3 ends the acquisition, whatever the check gave (R182). -/
theorem slot_reset3 {s t : State} {slot : Slot} (hq : s.owSeq = .reset3) (hn : s.nextSlot = some slot)
    (ht : s.slot slot = some t) : slot = .reset ∧ t.owSeq = .done := by
  obtain ⟨rfl, u, hu, ht⟩ := slot_reset_moves (by simp only [State.nextSlot, hq]) hn ht
  simp only [State.afterReset, hu.trans hq] at ht
  split at ht
  · obtain ⟨_, _, rfl⟩ := Option.map_eq_some_iff.1 ht
    exact ⟨rfl, rfl⟩
  · cases ht
    exact ⟨rfl, rfl⟩

/-- An unbounded poll: 1 leaves the loop, 0 counts and stays (R179). -/
theorem State.afterPoll_unbounded {s : State} (h : s.params.pollLimit = none) (r : Bool) :
    s.afterPoll r = if r then s.enter .reset2 else { s with pollCount := s.pollCount + 1 } := by
  cases r with
  | false => exact State.afterPoll_zero h
  | true => rfl

/-- The read slot of an unbounded poll (R179). -/
theorem slot_poll {s t : State} {slot : Slot} (hp : s.params.pollLimit = none) (hq : s.owSeq = .poll)
    (hn : s.nextSlot = some slot) (ht : s.slot slot = some t) :
    slot = .read ∧ t.owSeq = (if s.sensorAnswer then .reset2 else .poll) ∧
      t.pollCount = if s.sensorAnswer then s.pollCount else s.pollCount + 1 := by
  have hr : s.nextSlot = some .read := by simp only [State.nextSlot, hq]
  obtain rfl : slot = .read := Option.some.inj (hn.symm.trans hr)
  rw [slot_read_eq hr, State.countSample_cases, State.afterRead, if_pos (by exact hq), State.afterPoll_unbounded (by exact hp)] at ht
  cases ht
  cases s.sensorAnswer with
  | false => exact ⟨rfl, hq, rfl⟩
  | true => exact ⟨rfl, rfl, rfl⟩

/-- A scratchpad byte stored: the next one, and after the ninth RESET3 (R180, R181; log 17). -/
theorem State.storeScratch_moves {s t : State} (h : s.storeScratch = some t) :
    t.bitIndex = s.bitIndex ∧ t.owByte = s.owByte ∧ t.byteIndex = s.byteIndex + 1 ∧
      t.owSeq = if s.byteIndex = 8 then .reset3 else s.owSeq := by
  obtain ⟨m, _, hm⟩ := Option.bind_eq_some_iff.1 h
  by_cases h8 : s.byteIndex = 8
  · rw [if_pos (by exact congrArg Fin.val h8)] at hm
    obtain ⟨_, _, rfl⟩ := Option.map_eq_some_iff.1 hm
    exact ⟨rfl, rfl, by rw [h8]; rfl, (if_pos h8).symm⟩
  · rw [if_neg (by exact fun hv => h8 (Fin.ext hv))] at hm
    cases hm
    exact ⟨rfl, rfl, rfl, (if_neg h8).symm⟩

/-- The read slot of a scratchpad bit (R176, R180). -/
theorem slot_readSp {s t : State} {slot : Slot} (hq : s.owSeq = .readSp) (hn : s.nextSlot = some slot)
    (ht : s.slot slot = some t) :
    slot = .read ∧ t.bitIndex = s.bitIndex + 1 ∧ t.owByte = assembleBit s.owByte s.bitIndex s.sensorAnswer ∧
      t.byteIndex = (if s.bitIndex = 7 then s.byteIndex + 1 else s.byteIndex) ∧
      t.owSeq = if s.bitIndex = 7 ∧ s.byteIndex = 8 then .reset3 else .readSp := by
  have hr : s.nextSlot = some .read := nextSlot_of_read (by simp only [State.byteCall, hq])
  obtain rfl : slot = .read := Option.some.inj (hn.symm.trans hr)
  rw [slot_read_eq hr, State.countSample_cases, State.afterRead, if_neg (by simp [hq]), State.afterBit] at ht
  by_cases hb : s.bitIndex = 7
  · rw [if_pos (by exact hb), State.afterByte] at ht
    simp only [hq] at ht
    obtain ⟨hbit, hbyte, hindex, hseq⟩ := State.storeScratch_moves ht
    exact ⟨rfl, by rw [hbit, hb]; rfl, hbyte, by rw [hindex, if_pos hb], by simpa only [hb, true_and] using hseq⟩
  · rw [if_neg (by exact hb)] at ht
    cases ht
    exact ⟨rfl, rfl, rfl, (if_neg hb).symm, hq.trans (if_neg fun hc => hb hc.1).symm⟩

/-- Settles O29: the slot lemma of each position. -/
theorem slotsFollowTheSequence : Obligations.SlotsFollowTheSequence := by
  intro s slot hs hp hn
  obtain ⟨t, ht⟩ := State.slot_exists hs.scratch_length slot
  have writes : ∀ {p q v}, WritesCode p v q → s.owSeq = p →
      slot = .write (v.getLsbD s.bitIndex) ∧ t.bitIndex = s.bitIndex + 1 ∧ t.owSeq = if s.bitIndex = 7 then q else p := by
    rintro _ q v hw rfl
    exact hw.slot hn ht
  exact ⟨t, (exec_slot s slot).trans (finish_eq_next.2 ht), fun hq => slot_reset1 hq hn ht, writes .skip1, writes .convert,
    fun hq => slot_poll hp hq hn ht, fun hq => slot_reset2 hq hn ht, writes .skip2, writes .readCmd,
    fun hq => slot_readSp hq hn ht, fun hq => slot_reset3 hq hn ht⟩

end Sys2Proof.Machine

/-! # The CRC-8 generator (40_integrity_codec.md)

One round of a loop can be undone, so a table entry names its index: this is what detects a changed byte (R109). The direct computation keeps
the accumulator and the bits still to come apart, where the loop has them combined; combined again they run the same rounds (R107). -/

namespace Sys2Proof.Machine

/-! ### The loops and their tables (R101, R102) -/

/-- One round of a variant's loop (R101, R102). -/
def crcRound : Variant → Byte → Byte
  | .pec => pecRound
  | .ow => owRound

/-- The index a table entry is computed from, one round back: the bit a round shifts in shows whether it combined the polynomial. -/
def crcUnround : Variant → Byte → Byte
  | .pec, c => if c.getLsbD 0 then ((c ^^^ 0x07) >>> 1) ||| 0x80 else c >>> 1
  | .ow, c => if c.getLsbD 7 then ((c ^^^ 0x8C) <<< 1) ||| 0x01 else c <<< 1

theorem rounds_eq_iterate (f : Byte → Byte) (n : Nat) (c : Byte) : rounds f n c = f^[n] c := by
  induction n generalizing c with
  | zero => rfl
  | succ n ih => exact ih (f c)

/-- Every printed entry is eight rounds of its index. -/
theorem crcTable_eq_map (v : Variant) : crcTable v = (List.range 256).map fun i => rounds (crcRound v) 8 (BitVec.ofNat 8 i) := by
  cases v <;> decide +kernel

theorem crcEntry_eq_rounds (v : Variant) (i : Byte) : crcEntry v i = rounds (crcRound v) 8 i := by
  simp [crcEntry, crcTable_eq_map, i.isLt]

theorem crcTable_length (v : Variant) : (crcTable v).length = 256 := by
  rw [crcTable_eq_map, List.length_map, List.length_range]

theorem crcRound_leftInverse (v : Variant) : Function.LeftInverse (crcUnround v) (crcRound v) := by
  cases v <;> (unfold Function.LeftInverse; decide)

theorem crcEntry_injective (v : Variant) : Function.Injective (crcEntry v) := by
  have heq : crcEntry v = (crcRound v)^[8] := funext fun i => (crcEntry_eq_rounds v i).trans (rounds_eq_iterate _ 8 i)
  rw [heq]
  exact (crcRound_leftInverse v).injective.iterate 8

/-! ### The direct computation (R107) -/

/-- A direct bit is a round of the loop, once the bits still to come are combined into the accumulator. -/
theorem owDirectBit_xor_rest (b c : Byte) (i : Nat) : owDirectBit b c i ^^^ (b >>> (i + 1)) = owRound (c ^^^ (b >>> i)) := by
  simp only [owDirectBit, owRound, BitVec.shiftRight_add, BitVec.ushiftRight_xor_distrib]
  split
  · ac_rfl
  · rfl

theorem foldl_owDirectBit_xor_rest (b s : Byte) (n : Nat) :
    (List.range n).foldl (owDirectBit b) s ^^^ (b >>> n) = owRound^[n] (s ^^^ b) := by
  induction n with
  | zero => simp
  | succ n ih =>
    rw [List.range_succ, List.foldl_append, List.foldl_cons, List.foldl_nil, owDirectBit_xor_rest, ih, Function.iterate_succ_apply']

/-- After eight bits none is still to come. -/
theorem accumulateDirect_eq (v : Variant) (s b : Byte) : accumulateDirect v s b = crcEntry v (s ^^^ b) := by
  rw [crcEntry_eq_rounds]
  cases v with
  | pec => rfl
  | ow =>
    have hrest : b >>> 8 = 0#8 := BitVec.ushiftRight_eq_zero (Nat.le_refl 8)
    have h := foldl_owDirectBit_xor_rest b s 8
    rw [hrest, BitVec.xor_zero] at h
    exact h.trans (rounds_eq_iterate _ _ _).symm

/-- The accumulator, in either mode (R103, R107). -/
theorem accumulate_eq (mode : IntegrityMode) (v : Variant) (s b : Byte) : accumulate mode v s b = crcEntry v (s ^^^ b) := by
  cases mode with
  | table => rfl
  | direct => exact accumulateDirect_eq v s b

/-- The CRC, in either mode (R104, R107). -/
theorem crc_eq_foldl (mode : IntegrityMode) (v : Variant) (bytes : List Byte) :
    crc mode v bytes = bytes.foldl (fun acc b => crcEntry v (acc ^^^ b)) (crcSeed v) := by
  rw [crc, funext₂ (accumulate_eq mode v)]

theorem crc_sameInModes (mode mode' : IntegrityMode) (v : Variant) (bytes : List Byte) : crc mode v bytes = crc mode' v bytes := by
  rw [crc_eq_foldl, crc_eq_foldl]

theorem append_sameInModes (mode mode' : IntegrityMode) (v : Variant) (buf : List Byte) (len : Nat) :
    append mode v buf len = append mode' v buf len := by
  rw [append, append, crc_sameInModes mode mode']

theorem verify_sameInModes (mode mode' : IntegrityMode) (v : Variant) (buf : List Byte) (len : Nat) :
    verify mode v buf len = verify mode' v buf len := by
  rw [verify, verify, crc_sameInModes mode mode']

/-- Settles O2: one bit at a time, then one byte at a time. -/
theorem directModeAgreesWithTable : Obligations.DirectModeAgreesWithTable :=
  ⟨accumulate_eq .direct, crc_sameInModes .direct .table⟩

/-- Settles O1: both tables are the list of their loops' values. -/
theorem crcTablesMatchTheirLoops : Obligations.CrcTablesMatchTheirLoops :=
  ⟨crcTable_length .pec, crcTable_length .ow, fun i => ⟨crcEntry_eq_rounds .pec i, crcEntry_eq_rounds .ow i⟩⟩

/-! ### The codec operations (R103 to R106) -/

/-- The trailing byte of a buffer is set to the CRC of the bytes below it (R105). -/
theorem append_trailing (mode : IntegrityMode) (v : Variant) (data tail : List Byte) (x : Byte) :
    append mode v (data ++ x :: tail) data.length = some (data ++ crc mode v data :: tail) := by
  rw [append_of_lt (by simp), List.take_left, List.set_append_right _ _ (Nat.le_refl _), Nat.sub_self, List.set_cons_zero]

/-- The trailing byte of a buffer is compared with the CRC of the bytes below it (R106). -/
theorem verify_trailing (mode : IntegrityMode) (v : Variant) (data tail : List Byte) (x : Byte) :
    verify mode v (data ++ x :: tail) data.length = some (decide (crc mode v data = x)) :=
  verify_of_isPrefix ⟨tail, by simp⟩

theorem append_eq_none {mode : IntegrityMode} {v : Variant} {buf : List Byte} {len : Nat} (h : buf.length ≤ len) :
    append mode v buf len = none :=
  if_neg (Nat.not_lt.2 h)

theorem verify_eq_none_of_le {mode : IntegrityMode} {v : Variant} {buf : List Byte} {len : Nat} (h : buf.length ≤ len) :
    verify mode v buf len = none := by
  rw [verify, List.getElem?_eq_none h, Option.map_none]

theorem answerAccumulate_eq (v : Variant) (acc b : Byte) (s : State) :
    answerAccumulate v acc b s = .next { s with result := .byte (crcEntry v (acc ^^^ b)) } := by
  rw [answerAccumulate, accumulate_eq]
  rfl

theorem answerCrc_eq (v : Variant) (bytes : List Byte) (s : State) :
    answerCrc v bytes s = .next { s with result := .byte (bytes.foldl (fun acc b => crcEntry v (acc ^^^ b)) (crcSeed v)) } := by
  rw [answerCrc, crc_eq_foldl]
  rfl

theorem answerAppend_trailing (v : Variant) (data tail : List Byte) (x : Byte) (s : State) :
    answerAppend v (data ++ x :: tail) data.length s = .next { s with
      result := .bytes (data ++ data.foldl (fun acc b => crcEntry v (acc ^^^ b)) (crcSeed v) :: tail) } := by
  rw [answerAppend, append_trailing, crc_eq_foldl]
  rfl

theorem answerVerify_trailing (v : Variant) (data tail : List Byte) (x : Byte) (s : State) :
    answerVerify v (data ++ x :: tail) data.length s = .next { s with
      result := .flag (decide (data.foldl (fun acc b => crcEntry v (acc ^^^ b)) (crcSeed v) = x)) } := by
  rw [answerVerify, verify_trailing, crc_eq_foldl]
  rfl

theorem answerAppend_short {v : Variant} {buf : List Byte} {len : Nat} (h : buf.length ≤ len) (s : State) :
    answerAppend v buf len s = .refused .shortBuffer := by
  rw [answerAppend, append_eq_none h]

theorem answerVerify_short {v : Variant} {buf : List Byte} {len : Nat} (h : buf.length ≤ len) (s : State) :
    answerVerify v buf len s = .refused .shortBuffer := by
  rw [answerVerify, verify_eq_none_of_le h]

/-- Settles O4: the accumulator in either mode, once per variant. -/
theorem accumulateAnswersTableEntry : Obligations.AccumulateAnswersTableEntry :=
  fun acc b s => ⟨answerAccumulate_eq .pec acc b s, answerAccumulate_eq .ow acc b s⟩

/-- Settles O5: the fold in either mode, once per variant. -/
theorem crcAnswersFoldFromSeed : Obligations.CrcAnswersFoldFromSeed :=
  fun bytes s => ⟨answerCrc_eq .pec bytes s, answerCrc_eq .ow bytes s⟩

/-- Settles O6: the buffer split at its byte at `len`, once per variant. -/
theorem appendWritesTrailingCrc : Obligations.AppendWritesTrailingCrc :=
  fun data tail x s => ⟨answerAppend_trailing .pec data tail x s, answerAppend_trailing .ow data tail x s⟩

/-- Settles O7: the buffer split at its byte at `len`, once per variant. -/
theorem verifyComparesTrailingCrc : Obligations.VerifyComparesTrailingCrc :=
  fun data tail x s => ⟨answerVerify_trailing .pec data tail x s, answerVerify_trailing .ow data tail x s⟩

/-- Settles O8: neither append nor verify answers where there is no byte at `len`. -/
theorem shortBufferRefused : Obligations.ShortBufferRefused := by
  rintro buf len s h i (rfl | rfl | rfl | rfl)
  · exact answerAppend_short h s
  · exact answerAppend_short h s
  · exact answerVerify_short h s
  · exact answerVerify_short h s

/-- Settles O9: the byte append sets is the byte verify compares. -/
theorem appendThenVerifyHolds : Obligations.AppendThenVerifyHolds :=
  fun mode v b x => ⟨_, append_trailing mode v b [] x, by rw [verify_trailing, decide_eq_true rfl]⟩

/-! ### A changed byte is detected (R109) -/

/-- Accumulators that differ stay different over the same bytes. -/
theorem foldl_crcEntry_injective (v : Variant) (bytes : List Byte) :
    Function.Injective (bytes.foldl fun acc b => crcEntry v (acc ^^^ b)) := by
  induction bytes with
  | nil => exact Function.injective_id
  | cons b bytes ih => exact ih.comp fun _ _ h => (BitVec.xor_left_inj b).1 (crcEntry_injective v h)

/-- Two sequences that differ in one byte have different CRCs. -/
theorem crc_ne_of_byte_ne (mode : IntegrityMode) (v : Variant) (before after : List Byte) {x y : Byte} (h : x ≠ y) :
    crc mode v (before ++ x :: after) ≠ crc mode v (before ++ y :: after) := by
  simp only [crc_eq_foldl, List.foldl_append, List.foldl_cons]
  intro heq
  exact h ((BitVec.xor_right_inj _).1 (crcEntry_injective v (foldl_crcEntry_injective v after heq)))

/-- Setting a byte of a sequence to another value changes its CRC. -/
theorem crc_set_ne (mode : IntegrityMode) (v : Variant) {data : List Byte} {k : Nat} (hk : k < data.length) {x : Byte}
    (hx : data[k] ≠ x) : crc mode v (data.set k x) ≠ crc mode v data := by
  have hdata : data = data.take k ++ data[k] :: data.drop (k + 1) := by rw [← List.drop_eq_getElem_cons hk, List.take_append_drop]
  conv_rhs => rw [hdata]
  rw [List.set_eq_take_append_cons_drop, if_pos hk]
  exact crc_ne_of_byte_ne mode v _ _ hx.symm

/-- Settles O10: a changed data byte changes the CRC, and a changed CRC byte leaves it. -/
theorem singleByteCorruptionDetected : Obligations.SingleByteCorruptionDetected := by
  intro mode v buf n k x hlen hv hk hx
  have hn : n < buf.length := by omega
  rw [List.getElem?_eq_getElem (Nat.lt_of_le_of_lt hk hn)] at hx
  rw [verify_of_lt hn, Option.some_inj, decide_eq_true_eq] at hv
  rw [verify_of_lt (by rwa [List.length_set]), Option.some_inj, decide_eq_false_iff_not, List.take_set]
  obtain rfl | hkn := Nat.eq_or_lt_of_le hk
  · rw [List.getElem_set_self, List.set_eq_of_length_le (List.length_take_le _ _), hv]
    exact fun h => hx (congrArg some h)
  · rw [List.getElem_set_ne (Nat.ne_of_lt hkn), ← hv]
    refine crc_set_ne mode v (by rw [List.length_take]; omega) ?_
    rw [List.getElem_take]
    exact fun h => hx (congrArg some h)

end Sys2Proof.Machine

/-! # Both INTEGRITY_MODE builds take the same steps (R107)

The mode is read by `append` and `verify` alone, which give the same in both; every operation therefore commutes with a change of the mode. -/

namespace Sys2Proof.Machine

/-! ### What reads the mode -/

theorem State.append_withMode (s : State) (mode : IntegrityMode) (v : Variant) (buf : List Byte) (len : Nat) :
    append (s.withMode mode).params.integrityMode v buf len = append s.params.integrityMode v buf len :=
  append_sameInModes _ _ v buf len

theorem State.verify_withMode (s : State) (mode : IntegrityMode) (v : Variant) (buf : List Byte) (len : Nat) :
    verify (s.withMode mode).params.integrityMode v buf len = verify s.params.integrityMode v buf len :=
  verify_sameInModes _ _ v buf len

theorem finish_map (f : State → State) (o : Option State) : finish (o.map f) = mapNext f (finish o) := by
  cases o <;> rfl

/-- A meaning that is a shared operation commutes with a change of the mode as soon as the operation does. -/
theorem finish_withMode {mode : IntegrityMode} {o o' : Option State} (h : o' = o.map (·.withMode mode)) :
    finish o' = mapNext (·.withMode mode) (finish o) := by
  rw [h, finish_map]

/-! ### The bus events and the commands -/

theorem State.startMessage_withMode (s : State) (mode : IntegrityMode) : (s.withMode mode).startMessage = s.startMessage.withMode mode := by
  simp only [State.startMessage, apply_ite (State.withMode · mode)]
  rfl

theorem State.receive_withMode (s : State) (mode : IntegrityMode) (b : Byte) :
    (s.withMode mode).receive b = (s.receive b).map (·.withMode mode) := by
  simp only [State.receive, apply_ite (Option.map _), Option.map_map]
  rfl

theorem State.emitByte_withMode (s : State) (mode : IntegrityMode) : (s.withMode mode).emitByte = s.emitByte.map (·.withMode mode) := by
  simp only [State.emitByte, apply_ite (Option.map _), Option.map_map]
  rfl

theorem State.acceptance_withMode (s : State) (mode : IntegrityMode) (expected : Nat) :
    (s.withMode mode).acceptance expected = s.acceptance expected := by
  simp only [State.acceptance, State.verify_withMode]
  rfl

theorem State.respond_withMode (s : State) (mode : IntegrityMode) (payload : List Byte) :
    (s.withMode mode).respond payload = (s.respond payload).map (·.withMode mode) := by
  simp only [State.respond, State.append_withMode, Option.map_bind, Option.map_map, Function.comp_def]
  rfl

theorem State.applyChannels_withMode (s : State) (mode : IntegrityMode) (form : Form) :
    (s.withMode mode).applyChannels form = (s.applyChannels form).map (·.withMode mode) := by
  cases form with
  | short => rfl
  | long =>
    simp only [State.applyChannels, State.verify_withMode, apply_ite (Option.map _), Option.map_bind, Option.map_map, Function.comp_def]
    rfl

theorem State.dispatch_withMode (s : State) (mode : IntegrityMode) (c : Command) (form : Form) :
    (s.withMode mode).dispatch c form = (s.dispatch c form).map (·.withMode mode) := by
  cases c with
  | setChannels => exact s.applyChannels_withMode mode form
  | getTemp | getAirTempHumidity | getDepth => exact s.respond_withMode mode _

theorem State.conclude_withMode (s : State) (mode : IntegrityMode) (c : Command) (verdict : Verdict) :
    (s.withMode mode).conclude c verdict = (s.conclude c verdict).map (·.withMode mode) := by
  cases verdict with
  | acceptedShort | acceptedLong => exact s.dispatch_withMode mode c _
  | rejected kind => rfl

/-- A message is checked and dispatched in the same way in both modes (R123). -/
theorem State.completeMessage_withMode (s : State) (mode : IntegrityMode) :
    (s.withMode mode).completeMessage = s.completeMessage.map (·.withMode mode) := by
  have hcommand (op : Byte) : commandOf (s.withMode mode).params op = commandOf s.params op := rfl
  have hlength (c : Command) : expectedLength (s.withMode mode).params c = expectedLength s.params c := by cases c <;> rfl
  rw [State.completeMessage, State.completeMessage, apply_ite (Option.map _), Option.map_bind]
  refine congrArg (ite (s.rxCount = 0) _) (congrArg (Option.bind (s.mem.peek .rx 0)) (funext fun op => ?_))
  rw [Function.comp_apply, hcommand]
  cases commandOf s.params op with
  | none => rfl
  | some c => simp only [hlength, State.acceptance_withMode, State.conclude_withMode, Option.map_bind, Function.comp_def]

theorem execWc_withMode (s : State) (mode : IntegrityMode) : execWc (s.withMode mode) = mapNext (·.withMode mode) (execWc s) := by
  rw [execWc, execWc, apply_ite (mapNext _)]
  exact congrArg (ite (s.busState ≠ .writeRequested) _) (finish_withMode ((s.answer .none).completeMessage_withMode mode))

theorem execAccept_withMode (s : State) (mode : IntegrityMode) (expected : Nat) :
    execAccept expected (s.withMode mode) = mapNext (·.withMode mode) (execAccept expected s) := by
  refine finish_withMode ?_
  rw [State.acceptance_withMode, Option.map_map]
  rfl

/-! ### The codec -/

theorem answerAccumulate_withMode (s : State) (mode : IntegrityMode) (v : Variant) (acc b : Byte) :
    answerAccumulate v acc b (s.withMode mode) = mapNext (·.withMode mode) (answerAccumulate v acc b s) := by
  rw [answerAccumulate_eq, answerAccumulate_eq]
  rfl

theorem answerCrc_withMode (s : State) (mode : IntegrityMode) (v : Variant) (bytes : List Byte) :
    answerCrc v bytes (s.withMode mode) = mapNext (·.withMode mode) (answerCrc v bytes s) := by
  rw [answerCrc_eq, answerCrc_eq]
  rfl

theorem answerAppend_withMode (s : State) (mode : IntegrityMode) (v : Variant) (buf : List Byte) (len : Nat) :
    answerAppend v buf len (s.withMode mode) = mapNext (·.withMode mode) (answerAppend v buf len s) := by
  rw [answerAppend, answerAppend, State.append_withMode]
  cases append s.params.integrityMode v buf len <;> rfl

theorem answerVerify_withMode (s : State) (mode : IntegrityMode) (v : Variant) (buf : List Byte) (len : Nat) :
    answerVerify v buf len (s.withMode mode) = mapNext (·.withMode mode) (answerVerify v buf len s) := by
  rw [answerVerify, answerVerify, State.verify_withMode]
  cases verify s.params.integrityMode v buf len <;> rfl

/-! ### The one-wire driver -/

theorem State.countSample_withMode (s : State) (mode : IntegrityMode) : (s.withMode mode).countSample = s.countSample.withMode mode := by
  rw [State.countSample_cases, State.countSample_cases]
  rfl

theorem State.slotDone_withMode (s : State) (mode : IntegrityMode) (slot : Slot) :
    (s.withMode mode).slotDone slot = (s.slotDone slot).withMode mode := by
  rw [State.slotDone_eq, State.slotDone_eq, State.countSample_withMode]
  cases slot <;> rfl

theorem State.slotLevel_withMode (s : State) (mode : IntegrityMode) (slot : Slot) :
    ((s.withMode mode).runSlot slot).2 = (s.runSlot slot).2 := by
  rw [State.runSlot_eq, State.runSlot_eq]
  cases slot <;> rfl

theorem State.storeScratch_withMode (s : State) (mode : IntegrityMode) :
    (s.withMode mode).storeScratch = s.storeScratch.map (·.withMode mode) := by
  simp only [State.storeScratch, State.verify_withMode, apply_ite (Option.map _), Option.map_bind, Option.map_map, Function.comp_def]
  rfl

theorem State.afterByte_withMode (s : State) (mode : IntegrityMode) : (s.withMode mode).afterByte = s.afterByte.map (·.withMode mode) := by
  have hseq : (s.withMode mode).owSeq = s.owSeq := rfl
  rw [State.afterByte, State.afterByte, hseq]
  cases s.owSeq with
  | readSp => exact s.storeScratch_withMode mode
  | _ => rfl

theorem State.afterBit_withMode (s : State) (mode : IntegrityMode) : (s.withMode mode).afterBit = s.afterBit.map (·.withMode mode) := by
  rw [State.afterBit, State.afterBit, apply_ite (Option.map _), ← State.afterByte_withMode]
  rfl

theorem State.afterPoll_withMode (s : State) (mode : IntegrityMode) (r : Bool) :
    (s.withMode mode).afterPoll r = (s.afterPoll r).withMode mode := by
  have hlimit : (s.withMode mode).params.pollLimit = s.params.pollLimit := rfl
  cases r with
  | true => rfl
  | false =>
    simp only [State.afterPoll, hlimit, Bool.false_eq_true, if_false]
    cases s.params.pollLimit with
    | none => rfl
    | some k =>
      simp only [apply_ite (State.withMode · mode)]
      rfl

theorem State.afterRead_withMode (s : State) (mode : IntegrityMode) (r : Bool) :
    (s.withMode mode).afterRead r = (s.afterRead r).map (·.withMode mode) := by
  rw [State.afterRead, State.afterRead, apply_ite (Option.map _), Option.map_some, ← State.afterPoll_withMode, ← State.afterBit_withMode]
  rfl

theorem State.afterReset_withMode (s : State) (mode : IntegrityMode) (present : Bool) :
    (s.withMode mode).afterReset present = (s.afterReset present).map (·.withMode mode) := by
  have hseq : (s.withMode mode).owSeq = s.owSeq := rfl
  rw [State.afterReset, State.afterReset, hseq]
  cases s.owSeq with
  | reset1 => simp only [apply_ite (Option.map _)]; rfl
  | reset3 => simp only [apply_ite (Option.map _), Option.map_map]; rfl
  | _ => rfl

theorem State.advance_withMode (s : State) (mode : IntegrityMode) (slot : Slot) (level : Bool) :
    (s.withMode mode).advance slot level = (s.advance slot level).map (·.withMode mode) := by
  cases slot with
  | reset => exact s.afterReset_withMode mode _
  | write b => exact s.afterBit_withMode mode
  | read => exact s.afterRead_withMode mode level

/-- A slot runs the same on the line, and moves the sequencer in the same way, in both modes (R170). -/
theorem State.slot_withMode (s : State) (mode : IntegrityMode) (slot : Slot) :
    (s.withMode mode).slot slot = (s.slot slot).map (·.withMode mode) := by
  have hnext : (s.withMode mode).nextSlot = s.nextSlot := rfl
  rw [State.slot_eq, State.slot_eq, hnext, State.slotDone_withMode, State.slotLevel_withMode, State.advance_withMode,
    apply_ite (Option.map _), Option.map_some]

theorem State.callByte_withMode (s : State) (mode : IntegrityMode) (c : ByteCall) :
    (s.withMode mode).callByte c = mapNext (·.withMode mode) (s.callByte c) := by
  rw [State.callByte, State.callByte, apply_ite (mapNext _)]
  rfl

theorem execAcquireTemperature_withMode (s : State) (mode : IntegrityMode) :
    execAcquireTemperature (s.withMode mode) = mapNext (·.withMode mode) (execAcquireTemperature s) := by
  rw [execAcquireTemperature, execAcquireTemperature, apply_ite (mapNext _)]
  rfl

/-! ### Operations and steps -/

/-- Every operation does the same in both modes, its stops included. -/
theorem exec_withMode (i : Instr) (s : State) (mode : IntegrityMode) : exec i (s.withMode mode) = mapNext (·.withMode mode) (exec i s) := by
  cases i with
  | wr => exact congrArg Host.Outcome.next ((s.answer .none).startMessage_withMode mode)
  | rx b => exact finish_withMode ((s.answer .none).receive_withMode mode b)
  | wc => exact execWc_withMode s mode
  | rd => exact finish_withMode (s.emitByte_withMode mode)
  | accept expected => exact execAccept_withMode s mode expected
  | setChannels form => exact finish_withMode ((s.answer .none).applyChannels_withMode mode form)
  | getTemp | getAirTempHumidity | getDepth => exact finish_withMode ((s.answer .none).respond_withMode mode _)
  | accumulatePec | accumulateOw => exact answerAccumulate_withMode s mode _ _ _
  | crcPec | crcOw => exact answerCrc_withMode s mode _ _
  | appendPec | appendOw => exact answerAppend_withMode s mode _ _ _
  | verifyPec | verifyOw => exact answerVerify_withMode s mode _ _ _
  | owReset | owWriteBit | owReadBit => exact finish_withMode (s.slot_withMode mode _)
  | owWriteByte | owReadByte | skipRom | convertT | readScratchpad => exact s.callByte_withMode mode _
  | acquireTemperature => exact execAcquireTemperature_withMode s mode
  | sp | unrecognized | qerr | clr | en | pub | chan | rst => rfl

/-- What a step has to do, on another state. -/
def Fetch.mapState (f : State → State) : Fetch → Fetch
  | .run i s => .run i (f s)
  | .wait s => .wait (f s)
  | .bad e => .bad e

theorem fetchPosted_withMode (s : State) (mode : IntegrityMode) :
    fetchPosted (s.withMode mode) = (fetchPosted s).mapState (·.withMode mode) := by
  have hinbox : (s.withMode mode).inbox = s.inbox := rfl
  by_cases hempty : s.inbox = []
  · rw [fetchPosted_empty hempty, fetchPosted_empty (hinbox.trans hempty)]
    rfl
  · cases hd : decode s.inbox with
    | ok r => rw [fetchPosted_eq hd, fetchPosted_eq (s := s.withMode mode) hd]; rfl
    | error e => rw [fetchPosted_bad hd hempty, fetchPosted_bad (s := s.withMode mode) hd hempty]; rfl

theorem fetchSlot_withMode (s : State) (mode : IntegrityMode) :
    fetchSlot (s.withMode mode) = (fetchSlot s).mapState (·.withMode mode) := by
  have hnext : (s.withMode mode).nextSlot = s.nextSlot := rfl
  rw [fetchSlot, fetchSlot, hnext]
  cases s.nextSlot <;> rfl

/-- The mode has no part in which operation comes next (R237). -/
theorem fetch_withMode (s : State) (mode : IntegrityMode) : fetch (s.withMode mode) = (fetch s).mapState (·.withMode mode) := by
  have hturns : (s.withMode mode).turns = s.turns := rfl
  rw [fetch, fetch, hturns]
  rcases s.turns with _ | ⟨_ | _, ts⟩
  · rw [fetchSlot_withMode, fetchPosted_withMode, apply_ite (Fetch.mapState _)]
    rfl
  · exact fetchPosted_withMode { s with turns := ts } mode
  · exact fetchSlot_withMode { s with turns := ts } mode

/-- The configuration is admitted or refused whatever its mode (R8). -/
theorem admitted_withMode (s : State) (mode : IntegrityMode) : (s.withMode mode).params.admitted = s.params.admitted := rfl

theorem step_withMode (s : State) (mode : IntegrityMode) : step (s.withMode mode) = mapNext (·.withMode mode) (step s) := by
  cases ha : s.params.admitted with
  | false => rw [step_of_not_admitted ha, step_of_not_admitted ((admitted_withMode s mode).trans ha)]; rfl
  | true =>
    have ha' := (admitted_withMode s mode).trans ha
    have hfetch := fetch_withMode s mode
    cases hf : fetch s with
    | run i t => rw [step_of_fetch_run ha hf, step_of_fetch_run ha' (hf ▸ hfetch), exec_withMode]
    | wait t => rw [step_of_fetch_wait ha hf, step_of_fetch_wait ha' (hf ▸ hfetch)]; rfl
    | bad e => rw [step_of_fetch_bad ha hf, step_of_fetch_bad ha' (hf ▸ hfetch)]; rfl

/-- Settles O3: a step commutes with the change from one mode to the other. -/
theorem stepSameInBothIntegrityModes : Obligations.StepSameInBothIntegrityModes :=
  fun s => step_withMode (s.withMode .table) .direct

end Sys2Proof.Machine

/-! # Every step keeps the invariant (R129)

One lemma per shared operation of the bus engine: it keeps the counters in bounds and the index spaces at their capacities. The driver's
operations change nothing the invariant speaks of but one byte of scratch, and a step adds only the schedule. -/

namespace Sys2Proof.Machine

/-! ### The shared operations -/

/-- Wherever the engine goes Idle with its counters as they were, only the index spaces remain to be looked at. -/
theorem State.Inv.toIdle {s : State} (hs : s.Inv) {m : Memory} (hm : m.wf s.params = true) {e : Bool} {a : Answer} {d : Nat} :
    ({ s with busState := .idle, mem := m, error := e, result := a, draws := d } : State).Inv :=
  ⟨hs.admitted, hm, hs.rxBound, hs.txSent, hs.txBound, nofun⟩

theorem State.Inv.failed {s : State} (hs : s.Inv) (k : ErrorKind) : (s.fail k).Inv := hs.toIdle hs.memory

theorem State.Inv.startMessage {s : State} (hs : s.Inv) : s.startMessage.Inv := by
  unfold State.startMessage
  split
  · exact ⟨hs.admitted, hs.memory, Nat.zero_le _, hs.txSent, hs.txBound, nofun⟩
  · exact hs

theorem State.receive_keeps_inv {s t : State} {b : Byte} (hs : s.Inv) (h : s.receive b = some t) : t.Inv := by
  obtain rfl | rfl | ⟨hroom, m, hm, rfl⟩ := State.receive_cases h
  · exact hs
  · exact hs.failed _
  · exact ⟨hs.admitted, Memory.write_keeps_wf hm hs.memory, hroom, hs.txSent, hs.txBound, hs.response⟩

theorem State.emitByte_keeps_inv {s t : State} (hs : s.Inv) (h : s.emitByte = some t) : t.Inv := by
  obtain ⟨_, hleft, _, _, rfl⟩ | ⟨k, rfl⟩ := State.emitByte_cases h
  · exact ⟨hs.admitted, hs.memory, hs.rxBound, hleft, hs.txBound, hs.response⟩
  · exact hs.toIdle hs.memory

/-- A response carries one field or two (R74). -/
theorem commandPayload_length {c : Command} (hc : c ≠ .setChannels) (snap : Snapshot) :
    (commandPayload snap c).length = 2 ∨ (commandPayload snap c).length = 4 := by
  cases c with
  | setChannels => exact absurd rfl hc
  | getTemp | getDepth => exact .inl rfl
  | getAirTempHumidity => exact .inr rfl

/-- A response that has been written lies inside txBuffer, and its PEC is its third or its fifth byte. -/
theorem State.respond_keeps_inv {s t : State} {payload : List Byte} (hs : s.Inv) (hp : payload.length = 2 ∨ payload.length = 4)
    (h : s.respond payload = some t) : t.Inv := by
  obtain ⟨m, hm, rfl⟩ := State.respond_cases h
  have hfit : payload.length + 1 ≤ s.params.txCap := by
    obtain ⟨hle, _⟩ := Memory.write_cases hm
    rwa [Memory.space_tx, hs.tx_length, List.length_append, List.length_singleton, Nat.zero_add] at hle
  exact ⟨hs.admitted, Memory.write_keeps_wf hm hs.memory, hs.rxBound, Nat.zero_le _, hfit,
    fun _ => hp.imp (congrArg (· + 1)) (congrArg (· + 1))⟩

theorem State.applyChannels_keeps_inv {s t : State} {form : Form} (hs : s.Inv) (h : s.applyChannels form = some t) : t.Inv := by
  obtain ⟨k, rfl⟩ | ⟨_, _, _, _, m, _, hm, rfl⟩ := State.applyChannels_cases h
  · exact hs.failed k
  · exact hs.toIdle (Memory.write_keeps_wf hm hs.memory)

theorem State.dispatch_keeps_inv {s t : State} {c : Command} {form : Form} (hs : s.Inv) (h : s.dispatch c form = some t) : t.Inv := by
  by_cases hc : c = .setChannels
  · subst hc
    exact State.applyChannels_keeps_inv hs h
  · rw [State.dispatch_get hc] at h
    exact State.respond_keeps_inv hs (commandPayload_length hc _) h

theorem State.completeMessage_keeps_inv {s t : State} (hs : s.Inv) (h : s.completeMessage = some t) : t.Inv := by
  obtain ⟨k, rfl⟩ | ⟨_, _, _, _, _, hd⟩ := State.completeMessage_cases h
  · exact hs.failed k
  · exact State.dispatch_keeps_inv hs hd

/-- Reset draws as many free bytes as each index space holds (R260). -/
theorem State.Inv.resetAction {s : State} (hs : s.Inv) : s.resetAction.Inv where
  admitted := hs.admitted
  memory := by simp [State.resetAction, resetMemory, State.resetWith, Memory.wf, freeBytes_length]
  rxBound := Nat.zero_le _
  txSent := Nat.le_refl 0
  txBound := Nat.zero_le _
  response := nofun

/-! ### Every operation and every step -/

/-- Appending answers, and does nothing else (R105). -/
theorem answerAppend_cases {v : Variant} {buf : List Byte} {len : Nat} {s t : State} (h : answerAppend v buf len s = .next t) :
    ∃ a, t = s.answer a := by
  unfold answerAppend at h
  split at h
  · cases h; exact ⟨_, rfl⟩
  · cases h

/-- Verifying answers, and does nothing else (R106). -/
theorem answerVerify_cases {v : Variant} {buf : List Byte} {len : Nat} {s t : State} (h : answerVerify v buf len s = .next t) :
    ∃ a, t = s.answer a := by
  unfold answerVerify at h
  split at h
  · cases h; exact ⟨_, rfl⟩
  · cases h

theorem exec_wc_ignored {s : State} (h : s.busState ≠ .writeRequested) : exec .wc s = .next (s.answer .none) := if_pos h

theorem exec_wc_keeps_inv {s t : State} (hs : s.Inv) (h : exec .wc s = .next t) : t.Inv := by
  by_cases hb : s.busState = .writeRequested
  · rw [exec_wc_eq hb] at h
    exact State.completeMessage_keeps_inv (hs.answered .none) (finish_eq_next.1 h)
  · rw [exec_wc_ignored hb] at h
    cases h
    exact hs.answered .none

/-- The case split over the operations, made once. -/
theorem exec_keeps_inv {i : Instr} {s t : State} (hs : s.Inv) (h : exec i s = .next t) : t.Inv := by
  have ha : (s.answer .none).Inv := hs.answered .none
  cases i with
  | wr => cases h; exact ha.startMessage
  | rx b => exact State.receive_keeps_inv ha (finish_eq_next.1 h)
  | wc => exact exec_wc_keeps_inv hs h
  | rd => exact State.emitByte_keeps_inv hs (finish_eq_next.1 h)
  | sp => cases h; exact hs.toIdle hs.memory
  | accept expected =>
    obtain ⟨v, _, rfl⟩ := Option.map_eq_some_iff.1 (finish_eq_next.1 h)
    exact hs.answered _
  | setChannels form => exact State.applyChannels_keeps_inv ha (finish_eq_next.1 h)
  | getTemp => exact State.dispatch_keeps_inv (c := .getTemp) (form := .short) ha (finish_eq_next.1 h)
  | getAirTempHumidity => exact State.dispatch_keeps_inv (c := .getAirTempHumidity) (form := .short) ha (finish_eq_next.1 h)
  | getDepth => exact State.dispatch_keeps_inv (c := .getDepth) (form := .short) ha (finish_eq_next.1 h)
  | unrecognized => cases h; exact ha.failed _
  | accumulatePec | crcPec | accumulateOw | crcOw | qerr | chan => cases h; exact hs.answered _
  | appendPec | appendOw => obtain ⟨a, rfl⟩ := answerAppend_cases h; exact hs.answered a
  | verifyPec | verifyOw => obtain ⟨a, rfl⟩ := answerVerify_cases h; exact hs.answered a
  | owReset | owWriteBit | owReadBit | owWriteByte | owReadByte | acquireTemperature | skipRom | convertT | readScratchpad =>
    exact (OneWire.driverFrame (by constructor) h).keeps_inv hs
  | clr | en | pub => cases h; exact ⟨hs.admitted, hs.memory, hs.rxBound, hs.txSent, hs.txBound, hs.response⟩
  | rst => cases h; exact hs.resetAction

theorem step_keeps_inv {s t : State} (hs : s.Inv) (h : step s = .next t) : t.Inv := by
  obtain ⟨_, ⟨i, u, hf, he⟩ | hf⟩ := step_cases h
  · exact exec_keeps_inv (hs.fetched hf) he
  · rw [fetch_wait_frame hf]
    exact hs.scheduled _

/-- `error` once set stays set under every operation but ClearError and Reset (R29). -/
theorem exec_keeps_error {i : Instr} {s t : State} (h : exec i s = .next t) (hs : s.error = true) (hc : i ≠ .clr) (hr : i ≠ .rst) :
    t.error = true := by
  cases ht : t.error with
  | true => rfl
  | false => exact ((exec_error_cleared h hs ht).elim hc hr).elim

/-- Settles O48: the invariant along a step, and `error` along the five handlers, none of which is ClearError or Reset. -/
theorem stepKeepsInvariant : Obligations.StepKeepsInvariant := by
  refine ⟨fun s t => step_keeps_inv, fun s t i hi h hs => exec_keeps_error h hs ?_ ?_⟩
  all_goals obtain rfl | ⟨b, rfl⟩ | rfl | rfl | rfl := hi <;> exact nofun

end Sys2Proof.Machine

/-! # The bus events one by one (R121 to R126)

Each handler's exact next state, arm by arm. -/

namespace Sys2Proof.Machine

/-! ### WriteRequested and StopCondition (R121, R126) -/

theorem State.startMessage_eq (s : State) :
    s.startMessage = if s.enable = true ∧ (s.busState = .idle ∨ s.busState = .writeReadRequested) then
      { s with busState := .writeRequested, rxCount := 0 } else s := by
  simp only [State.startMessage, State.startsMessage_iff]

/-- Settles O11: the message starts on the state with its answer cleared. -/
theorem writeRequestedStartsMessage : Obligations.WriteRequestedStartsMessage :=
  fun s => congrArg Host.Outcome.next (s.answer .none).startMessage_eq

/-- Settles O17: the handler writes `state` alone. -/
theorem stopReturnsToIdle : Obligations.StopReturnsToIdle := fun _ => rfl

/-! ### ByteReceived (R122) -/

theorem exec_rx_ignored {s : State} (h : s.busState ≠ .writeRequested) (b : Byte) : exec (.rx b) s = .next (s.answer .none) :=
  finish_eq_next.2 (State.receive_ignored (s := s.answer .none) h)

theorem exec_rx_overflow {s : State} (h : s.busState = .writeRequested) (hfull : s.params.rxCap ≤ s.rxCount) (b : Byte) :
    exec (.rx b) s = .next ((s.answer .none).fail .bufferOverflow) :=
  finish_eq_next.2 (State.receive_overflow (s := s.answer .none) h hfull)

theorem exec_rx_stored {s : State} {b : Byte} {m : Memory} (h : s.busState = .writeRequested) (hroom : s.rxCount < s.params.rxCap)
    (hm : s.mem.write .rx s.rxCount [b] = some m) :
    exec (.rx b) s = .next { s.answer .none with mem := m, rxCount := s.rxCount + 1 } :=
  finish_eq_next.2 ((State.receive_stored (s := s.answer .none) h hroom).trans (congrArg (Option.map _) hm))

/-- Writing one byte: that byte reads back, and every other byte of its space is as before. -/
theorem Memory.write_one_peek {m m' : Memory} {sp : Space} {k : Nat} {b : Byte} (h : m.write sp k [b] = some m') :
    m'.peek sp k = some b ∧ ∀ j, j ≠ k → m'.peek sp j = m.peek sp j := by
  refine ⟨by simp [Memory.write_peek h], fun j hj => ?_⟩
  rw [Memory.write_peek h, if_neg (by rw [List.length_singleton]; omega)]

/-- Settles O12: the three arms, the stored byte by the rule of a one-byte write. -/
theorem byteReceivedStoresOrOverflows : Obligations.ByteReceivedStoresOrOverflows := by
  refine fun s b hs => ⟨fun hb => exec_rx_ignored hb b, fun hb hfull => exec_rx_overflow hb hfull.ge b, fun hb hroom => ?_⟩
  obtain ⟨m, hm⟩ : ∃ m, s.mem.write .rx s.rxCount [b] = some m :=
    Memory.write_exists (by rw [Memory.space_rx, hs.rx_length]; exact hroom)
  obtain ⟨hself, hothers⟩ := Memory.write_one_peek hm
  exact ⟨m, exec_rx_stored hb hroom hm, hself, hothers, fun sp k hsp => Memory.write_peek_other hm hsp k⟩

/-! ### The acceptance check (R124) -/

theorem State.acceptance_checked {s : State} {expected : Nat} {ok : Bool} (hc : s.rxCount = expected + 1)
    (hv : verify s.params.integrityMode .pec s.mem.rx expected = some ok) :
    s.acceptance expected = some (if ok then .acceptedLong else .rejected .integrity) := by
  rw [State.acceptance, if_neg (by omega), if_pos hc, hv, Option.map_some]

theorem State.acceptance_length {s : State} {expected : Nat} (h : s.rxCount ≠ expected) (h' : s.rxCount ≠ expected + 1) :
    s.acceptance expected = some (.rejected .protocolLength) := by
  rw [State.acceptance, if_neg h, if_neg h']

theorem exec_accept_eq {s : State} {expected : Nat} {v : Verdict} (h : s.acceptance expected = some v) :
    exec (.accept expected) s = .next (s.answer (.verdict v)) :=
  finish_eq_next.2 (by rw [h, Option.map_some])

/-- Settles O13: the verdict there is under the invariant, compared with that of each arm. -/
theorem acceptDecidesByLengthAndPec : Obligations.AcceptDecidesByLengthAndPec := by
  intro s l hs
  obtain ⟨v, hv⟩ := State.acceptance_exists hs l
  have hverdict : ∀ {w}, s.acceptance l = some w → v = w := fun hw => Option.some.inj (hv.symm.trans hw)
  exact ⟨v, exec_accept_eq hv, fun hc => hverdict (State.acceptance_short hc),
    fun hc hok => hverdict (State.acceptance_checked hc hok), fun hc hok => hverdict (State.acceptance_checked hc hok),
    fun h h' => hverdict (State.acceptance_length h h')⟩

/-! ### WriteComplete (R123) -/

/-- A command posted alone is its dispatch, whatever the form (R150). -/
theorem exec_commandInstr (s : State) (c : Command) (form : Form) :
    exec (commandInstr c form) s = finish ((s.answer .none).dispatch c form) := by
  cases c <;> rfl

theorem expectedLength_pos (p : Params) (c : Command) : 0 < expectedLength p c := by
  cases c with
  | setChannels => exact Nat.lt_of_lt_of_le Nat.zero_lt_one (Nat.le_add_right 1 p.channels)
  | getTemp | getAirTempHumidity | getDepth => exact Nat.zero_lt_one

/-- An empty message is not of any command's length. -/
theorem State.acceptance_empty {s : State} (h : s.rxCount = 0) (c : Command) :
    s.acceptance (expectedLength s.params c) = some (.rejected .protocolLength) := by
  have hpos := expectedLength_pos s.params c
  exact State.acceptance_length (by omega) (by omega)

theorem State.completeMessage_empty {s : State} (h : s.rxCount = 0) : s.completeMessage = some (s.fail .protocolLength) := if_pos h

theorem State.completeMessage_unknown {s : State} {op : Byte} (h : s.rxCount ≠ 0) (hop : s.mem.peek .rx 0 = some op)
    (hc : commandOf s.params op = none) : s.completeMessage = some (s.fail .unknownCommand) := by
  rw [State.completeMessage, if_neg h, hop, Option.bind_some, hc]

theorem State.completeMessage_command {s : State} {op : Byte} {c : Command} {v : Verdict} (h : s.rxCount ≠ 0)
    (hop : s.mem.peek .rx 0 = some op) (hc : commandOf s.params op = some c)
    (hv : s.acceptance (expectedLength s.params c) = some v) : s.completeMessage = s.conclude c v := by
  rw [State.completeMessage, if_neg h, hop, Option.bind_some, hc]
  exact congrArg (Option.bind · _) hv

/-- The verdict that accepts a message in a form (R124). -/
def acceptedAs : Form → Verdict
  | .short => .acceptedShort
  | .long => .acceptedLong

theorem State.conclude_acceptedAs (s : State) (c : Command) (form : Form) : s.conclude c (acceptedAs form) = s.dispatch c form := by
  cases form <;> rfl

/-- WriteComplete of an accepted message is its command's operation (R150). -/
theorem exec_wc_accepted {s : State} {op : Byte} {c : Command} {form : Form} (hb : s.busState = .writeRequested)
    (hop : s.mem.peek .rx 0 = some op) (hc : commandOf s.params op = some c)
    (hv : s.acceptance (expectedLength s.params c) = some (acceptedAs form)) : exec .wc s = exec (commandInstr c form) s := by
  have hne : s.rxCount ≠ 0 := by
    intro h0
    rw [State.acceptance_empty h0 c] at hv
    cases form <;> cases hv
  rw [exec_wc_eq hb, exec_commandInstr, ← State.conclude_acceptedAs]
  exact congrArg finish (State.completeMessage_command (s := s.answer .none) hne hop hc hv)

/-- Settles O14: both operations run the command's dispatch, which answers under the invariant. -/
theorem writeCompleteRunsAcceptedCommand : Obligations.WriteCompleteRunsAcceptedCommand := by
  intro s op c form hs hb hop hc hv
  obtain ⟨t, ht⟩ := State.dispatch_exists (hs.answered .none) c form
  have hcommand : exec (commandInstr c form) s = .next t := by
    rw [exec_commandInstr]
    exact finish_eq_next.2 ht
  exact ⟨t, (exec_wc_accepted hb hop hc (by cases form <;> exact hv)).trans hcommand, hcommand⟩

/-- What WriteComplete fails for (R123, R236). -/
def State.RejectsMessage (s : State) : Prop :=
  s.rxCount = 0 ∨ ∃ op, s.mem.peek .rx 0 = some op ∧ (commandOf s.params op = none ∨
    ∃ c, commandOf s.params op = some c ∧ ((∃ k, s.acceptance (expectedLength s.params c) = some (.rejected k)) ∨
      (c = .setChannels ∧ s.acceptance (expectedLength s.params c) = some .acceptedShort)))

theorem State.RejectsMessage.completeMessage {s : State} (h : s.RejectsMessage) : ∃ k, s.completeMessage = some (s.fail k) := by
  by_cases h0 : s.rxCount = 0
  · exact ⟨_, State.completeMessage_empty h0⟩
  · obtain he | ⟨op, hop, hc | ⟨c, hc, ⟨k, hv⟩ | ⟨rfl, hv⟩⟩⟩ := h
    · exact absurd he h0
    · exact ⟨_, State.completeMessage_unknown h0 hop hc⟩
    · exact ⟨k, State.completeMessage_command h0 hop hc hv⟩
    · exact ⟨.integrity, State.completeMessage_command h0 hop hc hv⟩

/-- Settles O15: outside a write nothing is completed; a rejected message ends in the failure procedure, which records no kind. -/
theorem writeCompleteRejects : Obligations.WriteCompleteRejects := by
  refine fun s _ => ⟨exec_wc_ignored, fun hb hr => ?_⟩
  obtain ⟨k, hk⟩ := State.RejectsMessage.completeMessage (s := s.answer .none) hr
  rw [exec_wc_eq hb, hk]
  rfl

/-! ### ReadRequested (R125) -/

/-- A failed read emits a free byte, of which nothing is said (R10). -/
theorem exec_rd_failed {s : State} {k : ErrorKind} (h : s.emitByte = some (s.failRead k)) :
    ∃ b, exec .rd s = .next { s with result := .byte b, error := true, busState := .idle, draws := s.draws + 1 } :=
  ⟨s.drawByte, finish_eq_next.2 h⟩

/-- Settles O16: under the invariant the next byte lies inside txBuffer; the other two arms are failed reads. -/
theorem readRequestedEmitsOrFails : Obligations.ReadRequestedEmitsOrFails := by
  refine fun s hs => ⟨fun hb hleft => ?_, fun hb hend => exec_rd_failed (State.emitByte_overRead hb hend.ge),
    fun hb => exec_rd_failed (State.emitByte_readState hb)⟩
  obtain ⟨b, hpeek⟩ : ∃ b, s.mem.peek .tx s.txCount = some b :=
    Memory.peek_of_wf hs.memory (Nat.lt_of_lt_of_le hleft hs.txBound)
  refine ⟨b, hpeek, finish_eq_next.2 ?_⟩
  rw [State.emitByte_next hb hleft, hpeek]
  rfl

end Sys2Proof.Machine

/-! # Messages that fail, and a state that is never entered

A message with an unrecognized first byte and a message longer than RX_CAP leave nothing but `error` behind (R122, R123, R155);
WriteReadRequested is in the range of no operation (R128). -/

namespace Sys2Proof.Machine

/-! ### Runs of operations -/

theorem runOps_append {s t : State} {ops : List Instr} (h : runOps ops s = .next t) (ops' : List Instr) :
    runOps (ops ++ ops') s = runOps ops' t := by
  induction ops generalizing s with
  | nil => cases h; rfl
  | cons i ops ih =>
    rw [List.cons_append]
    simp only [runOps] at h ⊢
    cases hi : exec i s with
    | next u => rw [hi] at h; exact ih h
    | fault r | refused r => rw [hi] at h; cases h

/-- What each operation of a run keeps, the run keeps. -/
theorem runOps_keeps {P : State → Prop} {ops : List Instr} (hops : ∀ i ∈ ops, ∀ {s t}, P s → exec i s = .next t → P t)
    {s t : State} (hs : P s) (h : runOps ops s = .next t) : P t := by
  induction ops generalizing s with
  | nil => cases h; exact hs
  | cons i ops ih =>
    simp only [runOps] at h
    cases hi : exec i s with
    | next u =>
      rw [hi] at h
      exact ih (fun j hj => hops j (List.mem_cons_of_mem i hj)) (hops i List.mem_cons_self hs hi) h
    | fault r | refused r => rw [hi] at h; cases h

/-! ### Receiving leaves txBuffer as it was -/

theorem exec_wr_tx {s t : State} (h : exec .wr s = .next t) : t.mem.tx = s.mem.tx := by
  cases h
  rw [State.startMessage_eq]
  split <;> rfl

theorem exec_rx_tx {s t : State} {b : Byte} (h : exec (.rx b) s = .next t) : t.mem.tx = s.mem.tx := by
  obtain rfl | rfl | ⟨_, m, hm, rfl⟩ := State.receive_cases (finish_eq_next.1 h)
  · rfl
  · rfl
  · exact Memory.write_space_other hm (by decide : Space.tx ≠ .rx)

/-- WR and the bytes of a message, before WC. -/
def receiveOps (bytes : List Byte) : List Instr := .wr :: bytes.map .rx

theorem writeOps_eq (bytes : List Byte) : writeOps bytes = receiveOps bytes ++ [.wc] := rfl

theorem receiveOps_append (bytes bytes' : List Byte) : receiveOps (bytes ++ bytes') = receiveOps bytes ++ bytes'.map .rx := by
  rw [receiveOps, receiveOps, List.map_append, List.cons_append]

theorem receiveOps_tx {s t : State} {bytes : List Byte} (h : runOps (receiveOps bytes) s = .next t) : t.mem.tx = s.mem.tx := by
  refine runOps_keeps (P := fun u => u.mem.tx = s.mem.tx) (fun i hi u v hu hv => ?_) rfl h
  obtain rfl | hi := List.mem_cons.1 hi
  · exact (exec_wr_tx hv).trans hu
  · obtain ⟨b, _, rfl⟩ := List.mem_map.1 hi
    exact (exec_rx_tx hv).trans hu

/-- A message that fits is received, with txBuffer as it was. -/
theorem runOps_receiveOps {s : State} {bytes : List Byte} (hs : s.Inv) (hb : s.busState = .idle) (he : s.enable = true)
    (hroom : bytes.length ≤ s.params.rxCap) :
    ∃ u, runOps (receiveOps bytes) s = .next u ∧ Received s bytes u ∧ u.mem.tx = s.mem.tx := by
  obtain ⟨t, ht, h0⟩ := exec_wr_received hs hb he
  obtain ⟨u, hu, hr⟩ := runOps_rx_received (bytes := bytes) h0 (by rwa [List.length_nil, Nat.zero_add]) []
  have hrun : runOps (receiveOps bytes) s = .next u := by
    rw [List.append_nil] at hu
    rw [receiveOps, runOps_cons _ ht, hu, runOps]
  exact ⟨u, hrun, hr, receiveOps_tx hrun⟩

/-! ### A message with an unrecognized first byte (R155) -/

/-- WriteComplete of a message that no command's byte opens. -/
theorem Received.exec_wc_unknown {s u : State} {op : Byte} {rest : List Byte} (h : Received s (op :: rest) u)
    (hc : commandOf s.params op = none) : exec .wc u = .next ((u.answer .none).fail .unknownCommand) := by
  have hne : u.rxCount ≠ 0 := by rw [h.count]; exact Nat.succ_ne_zero _
  have hop : u.mem.peek .rx 0 = some op := by
    obtain ⟨tail, htail⟩ := h.message
    rw [Memory.peek, Memory.space_rx, ← htail]
    rfl
  have hunknown : commandOf u.params op = none := by rw [h.params, hc]
  rw [exec_wc_eq h.busState]
  exact finish_eq_next.2 (State.completeMessage_unknown (s := u.answer .none) hne hop hunknown)

/-- Settles O24: the message is received, and its completion fails on its first byte. -/
theorem unknownMessageFails : Obligations.UnknownMessageFails := by
  intro s op rest hs hb he hc hroom
  obtain ⟨u, hrun, hu, htx⟩ := runOps_receiveOps (bytes := op :: rest) hs hb he hroom
  refine ⟨(u.answer .none).fail .unknownCommand, ?_, rfl, rfl, hu.bank, htx, hu.snapshot⟩
  rw [writeOps_eq, runOps_append hrun, runOps_cons _ (hu.exec_wc_unknown hc)]
  rfl

/-! ### A message longer than RX_CAP (R122) -/

/-- Outside a write the rest of a message is ignored, its WriteComplete too. -/
theorem runOps_rest_ignored {s : State} (h : s.busState ≠ .writeRequested) (bytes : List Byte) :
    runOps (bytes.map .rx ++ [.wc]) s = .next (s.answer .none) := by
  induction bytes generalizing s with
  | nil => rw [List.map_nil, List.nil_append, runOps_cons _ (exec_wc_ignored h)]; rfl
  | cons b bytes ih => rw [List.map_cons, List.cons_append, runOps_cons _ (exec_rx_ignored h b)]; exact ih h

/-- A list longer than `n` is its first `n` elements, one more, and a rest. -/
theorem exists_eq_append_cons_of_lt {bytes : List Byte} {n : Nat} (h : n < bytes.length) :
    ∃ pre b rest, bytes = pre ++ b :: rest ∧ pre.length = n :=
  ⟨bytes.take n, bytes[n], bytes.drop (n + 1), by rw [← List.drop_eq_getElem_cons h, List.take_append_drop],
    List.length_take_of_le (Nat.le_of_lt h)⟩

/-- Settles O25: RX_CAP bytes are received, the next one overflows into Idle, and there the rest is ignored. -/
theorem overflowDiscardsMessage : Obligations.OverflowDiscardsMessage := by
  intro s bytes hs hb he hlong
  obtain ⟨pre, b, rest, rfl, hpre⟩ := exists_eq_append_cons_of_lt hlong
  obtain ⟨u, hrun, hu, htx⟩ := runOps_receiveOps hs hb he hpre.le
  have hcount : u.rxCount = s.params.rxCap := hu.count.trans hpre
  have hoverflow := exec_rx_overflow hu.busState (by rw [hcount, hu.params]) b
  refine ⟨((u.answer .none).fail .bufferOverflow).answer .none, ?_, rfl, rfl, hu.bank, htx, hcount⟩
  rw [writeOps_eq, receiveOps_append, List.append_assoc, runOps_append hrun, List.map_cons, List.cons_append, runOps_cons _ hoverflow]
  exact runOps_rest_ignored (s := (u.answer .none).fail .bufferOverflow) nofun rest

/-! ### WriteReadRequested is never entered (R128) -/

theorem State.startMessage_busState (s : State) : s.startMessage.busState = s.busState ∨ s.startMessage.busState = .writeRequested := by
  rw [State.startMessage_eq]
  split
  · exact .inr rfl
  · exact .inl rfl

theorem State.receive_busState {s t : State} {b : Byte} (h : s.receive b = some t) : t.busState = s.busState ∨ t.busState = .idle := by
  obtain rfl | rfl | ⟨_, _, _, rfl⟩ := State.receive_cases h
  · exact .inl rfl
  · exact .inr rfl
  · exact .inl rfl

theorem State.emitByte_busState {s t : State} (h : s.emitByte = some t) : t.busState = s.busState ∨ t.busState = .idle := by
  obtain ⟨_, _, _, _, rfl⟩ | ⟨_, rfl⟩ := State.emitByte_cases h
  · exact .inl rfl
  · exact .inr rfl

theorem State.respond_busState {s t : State} {payload : List Byte} (h : s.respond payload = some t) : t.busState = .readRequested := by
  obtain ⟨_, _, rfl⟩ := State.respond_cases h
  rfl

theorem State.applyChannels_busState {s t : State} {form : Form} (h : s.applyChannels form = some t) : t.busState = .idle := by
  obtain ⟨_, rfl⟩ | ⟨_, _, _, _, _, _, _, rfl⟩ := State.applyChannels_cases h <;> rfl

theorem State.dispatch_busState {s t : State} {c : Command} {form : Form} (h : s.dispatch c form = some t) :
    t.busState = .idle ∨ t.busState = .readRequested := by
  cases c with
  | setChannels => exact .inl (State.applyChannels_busState h)
  | getTemp | getAirTempHumidity | getDepth => exact .inr (State.respond_busState h)

theorem State.completeMessage_busState {s t : State} (h : s.completeMessage = some t) :
    t.busState = .idle ∨ t.busState = .readRequested := by
  obtain ⟨_, rfl⟩ | ⟨_, _, _, _, _, hd⟩ := State.completeMessage_cases h
  · exact .inl rfl
  · exact State.dispatch_busState hd

theorem exec_wc_busState {s t : State} (h : exec .wc s = .next t) :
    t.busState = s.busState ∨ t.busState = .idle ∨ t.busState = .readRequested := by
  by_cases hb : s.busState = .writeRequested
  · rw [exec_wc_eq hb] at h
    exact .inr (State.completeMessage_busState (finish_eq_next.1 h))
  · rw [exec_wc_ignored hb] at h
    cases h
    exact .inl rfl

/-- Where a bus event or a command can leave the engine. -/
theorem MovesBus.busState {i : Instr} {s t : State} (hi : MovesBus i) (h : exec i s = .next t) :
    t.busState = s.busState ∨ t.busState = .idle ∨ t.busState = .writeRequested ∨ t.busState = .readRequested := by
  cases hi with
  | wr => cases h; exact (s.answer .none).startMessage_busState.imp_right fun hb => .inr (.inl hb)
  | rx b => exact (State.receive_busState (finish_eq_next.1 h)).imp_right .inl
  | wc => exact (exec_wc_busState h).imp_right fun hb => hb.imp_right .inr
  | rd => exact (State.emitByte_busState (finish_eq_next.1 h)).imp_right .inl
  | sp | unrecognized => cases h; exact .inr (.inl rfl)
  | setChannels form => exact .inr (.inl (State.applyChannels_busState (finish_eq_next.1 h)))
  | getTemp | getAirTempHumidity | getDepth => exact .inr (.inr (.inr (State.respond_busState (finish_eq_next.1 h))))

/-- Only the bus events, the commands and Reset write the engine's state, and none of them writes WriteReadRequested. -/
theorem exec_never_enters_writeReadRequested {i : Instr} {s t : State} (h : exec i s = .next t)
    (hs : s.busState ≠ .writeReadRequested) : t.busState ≠ .writeReadRequested := by
  by_cases hsame : t.busState = s.busState
  · rwa [hsame]
  · obtain hi | rfl := exec_busState_writers h hsame
    · obtain hb | hb | hb | hb := hi.busState h <;> rw [hb]
      · exact hs
      all_goals decide
    · cases h
      exact nofun

theorem step_never_enters_writeReadRequested {s t : State} (h : step s = .next t) (hs : s.busState ≠ .writeReadRequested) :
    t.busState ≠ .writeReadRequested := by
  obtain ⟨_, ⟨i, u, hf, he⟩ | hf⟩ := step_cases h
  · refine exec_never_enters_writeReadRequested he ?_
    rw [fetch_run_frame hf]
    exact hs
  · rw [fetch_wait_frame hf]
    exact hs

/-- Settles O54: no operation enters it, so by induction on the steps no run from an Idle state reaches it. -/
theorem writeReadRequestedUnreachable : Obligations.WriteReadRequestedUnreachable := by
  refine ⟨fun i s t => exec_never_enters_writeReadRequested, fun p s t hs hr => ?_⟩
  induction hr with
  | refl => rw [hs]; exact nofun
  | tail _ hstep ih => exact step_never_enters_writeReadRequested hstep ih

end Sys2Proof.Machine

/-! # The commands one by one (R150 to R157)

What SETCHANNELS and the GET_* handlers write, byte by byte, and what they never look at. -/

namespace Sys2Proof.Machine

/-! ### A response is a payload and its PEC (R152 to R154) -/

/-- A payload written with its PEC from index 0: the payload, then the PEC, then the space as before. -/
theorem Memory.write_payload_peek {m m' : Memory} {sp : Space} {payload : List Byte} {x : Byte}
    (h : m.write sp 0 (payload ++ [x]) = some m') :
    (∀ k, k < payload.length → m'.peek sp k = payload[k]?) ∧ m'.peek sp payload.length = some x ∧
      ∀ k, payload.length < k → m'.peek sp k = m.peek sp k := by
  have hlen : (payload ++ [x]).length = payload.length + 1 := by rw [List.length_append, List.length_singleton]
  refine ⟨fun k hk => ?_, ?_, fun k hk => ?_⟩
  · rw [Memory.write_peek h, if_pos (by omega), Nat.sub_zero, List.getElem?_append_left hk]
  · rw [Memory.write_peek h, if_pos (by omega), Nat.sub_zero, List.getElem?_concat_length]
  · rw [Memory.write_peek h, if_neg (by omega)]

/-- A GET_* handler posted alone is one write to txBuffer with its counters and its state (R152 to R154). -/
theorem exec_get_prepares {s : State} (hs : s.Inv) {c : Command} (hc : c ≠ .setChannels) (form : Form) :
    ∃ m, s.mem.write .tx 0
        (commandPayload s.snapshot c ++ [crc s.params.integrityMode .pec (commandPayload s.snapshot c)]) = some m ∧
      exec (commandInstr c form) s = .next { s with
        result := .none, mem := m, txLength := (commandPayload s.snapshot c).length + 1, txCount := 0,
        busState := .readRequested } := by
  obtain ⟨t, ht⟩ := State.respond_exists (hs.answered .none) (commandPayload_length_le s.snapshot c)
  obtain ⟨m, hm, rfl⟩ := State.respond_cases ht
  exact ⟨m, hm, by rw [exec_commandInstr, State.dispatch_get hc]; exact finish_eq_next.2 ht⟩

/-- Settles O19: each row of R74 is a command's payload, which goes to txBuffer in one write, read back byte by byte. -/
theorem responsesArePrepared : Obligations.ResponsesArePrepared := by
  intro s i payload hs hrow
  obtain ⟨c, hc, rfl, rfl⟩ : ∃ c, c ≠ .setChannels ∧ i = commandInstr c .short ∧ payload = commandPayload s.snapshot c := by
    obtain ⟨rfl, rfl⟩ | ⟨rfl, rfl⟩ | ⟨rfl, rfl⟩ := hrow
    · exact ⟨.getTemp, nofun, rfl, rfl⟩
    · exact ⟨.getAirTempHumidity, nofun, rfl, rfl⟩
    · exact ⟨.getDepth, nofun, rfl, rfl⟩
  obtain ⟨m, hm, hexec⟩ := exec_get_prepares hs hc .short
  obtain ⟨hpayload, hpec, hbeyond⟩ := Memory.write_payload_peek hm
  exact ⟨m, hexec, hpayload, hpec, hbeyond, fun sp k hsp => Memory.write_peek_other hm hsp k⟩

/-! ### SETCHANNELS (R151) -/

/-- What a read that answers has read. -/
theorem Memory.read_cases {m : Memory} {sp : Space} {start len : Nat} {bytes : List Byte} (h : m.read sp start len = some bytes) :
    bytes.length = len ∧ ∀ k, k < len → bytes[k]? = m.peek sp (start + k) := by
  unfold Memory.read at h
  split at h
  case isTrue hle =>
    cases h
    refine ⟨by rw [List.length_take, List.length_drop]; omega, fun k hk => ?_⟩
    rw [List.getElem?_take_of_lt hk, List.getElem?_drop, Memory.peek]
  case isFalse => cases h

theorem exec_setChannels_short (s : State) : exec (.setChannels .short) s = .next ((s.answer .none).fail .integrity) := rfl

/-- A wrong integrity byte fails before any byte is read for the bank. -/
theorem exec_setChannels_wrong {s : State} (hc : s.rxCount = s.params.channels + 2)
    (hv : verify s.params.integrityMode .pec s.mem.rx (1 + s.params.channels) = some false) :
    exec (.setChannels .long) s = .next ((s.answer .none).fail .integrity) :=
  finish_eq_next.2 ((State.applyChannels_long (s := s.answer .none) hc).trans (congrArg (Option.bind · _) hv))

/-- A right integrity byte: the intensities, all of them received bytes, go into the bank in one write. -/
theorem exec_setChannels_right {s : State} (hs : s.Inv) (hc : s.rxCount = s.params.channels + 2)
    (hv : verify s.params.integrityMode .pec s.mem.rx (1 + s.params.channels) = some true) :
    ∃ bytes m, s.mem.read .rx 1 s.params.channels = some bytes ∧ s.mem.write .bank 0 bytes = some m ∧
      exec (.setChannels .long) s = .next { s with result := .none, mem := m, busState := .idle } := by
  have hroom : 1 + s.params.channels ≤ (s.mem.space .rx).length := by
    have := hs.rxBound
    rw [Memory.space_rx, hs.rx_length]
    omega
  obtain ⟨bytes, hread⟩ : ∃ bytes, s.mem.read .rx 1 s.params.channels = some bytes := ⟨_, Memory.read_of_le hroom⟩
  obtain ⟨hlen, _⟩ := Memory.read_cases hread
  obtain ⟨m, hm⟩ : ∃ m, s.mem.write .bank 0 bytes = some m :=
    Memory.write_exists (by rw [Memory.space_bank, hs.bank_length]; omega)
  refine ⟨bytes, m, hread, hm, finish_eq_next.2 ?_⟩
  calc (s.answer .none).applyChannels .long
      = (s.mem.read .rx 1 s.params.channels).bind fun bytes =>
          (s.mem.write .bank 0 bytes).map fun m => { s.answer .none with mem := m, busState := .idle } :=
        (State.applyChannels_long (s := s.answer .none) hc).trans (congrArg (Option.bind · _) hv)
    _ = some { s with result := .none, mem := m, busState := .idle } := by
        rw [hread, Option.bind_some, hm, Option.map_some]
        rfl

/-- Settles O20: the bank is one write of the bytes read from rxBuffer, or the failure procedure. -/
theorem setChannelsAppliesAllOrNothing : Obligations.SetChannelsAppliesAllOrNothing := by
  refine fun s hs => ⟨exec_setChannels_short s, exec_setChannels_wrong, fun hc hv => ?_⟩
  obtain ⟨bytes, m, hread, hm, hexec⟩ := exec_setChannels_right hs hc hv
  obtain ⟨hlen, hbytes⟩ := Memory.read_cases hread
  refine ⟨m, hexec, fun k hk => ?_, fun sp k hsp => Memory.write_peek_other hm hsp k⟩
  rw [Memory.write_peek hm, if_pos (by omega), Nat.sub_zero, hbytes k hk]

/-! ### The error flag and the responses (R157) -/

/-- A response neither reads nor writes `error`. -/
theorem State.respond_withError (s : State) (e : Bool) (payload : List Byte) :
    (s.withError e).respond payload = (s.respond payload).map (·.withError e) := by
  simp only [State.respond, Option.map_bind, Option.map_map, Function.comp_def]
  rfl

/-- Settles O26: a GET_* command is its response, which commutes with a change of the flag. -/
theorem responsesIgnoreErrorFlag : Obligations.ResponsesIgnoreErrorFlag := by
  intro s e c form hc
  rw [exec_commandInstr, exec_commandInstr, State.dispatch_get hc, State.dispatch_get hc, ← finish_map]
  exact congrArg finish ((s.answer .none).respond_withError e _)

end Sys2Proof.Machine

/-! # The one-wire slots, one by one (R171 to R174)

A slot is its waveform and then the sequencer's move, which touches nothing of the line (R170); so the line and the answer are those of the
waveform, in sequence or out of it. -/

namespace Sys2Proof.Machine

/-! ### The sequencer's move leaves the line alone (R170, R171) -/

/-- What a slot's waveform has settled when the sequencer moves: the line, its samples and the answer. -/
structure LineKept (s t : State) : Prop where
  owDrive : t.owDrive = s.owDrive
  result : t.result = s.result
  line : t.line = s.line
  draws : t.draws = s.draws

/-- A move of the sequencer: new values of the driver's own elements and of the index spaces. -/
theorem LineKept.moved {s : State} {m : Memory} {q : OwSeq} {bit : Fin 8} {byte : Fin 9} {polls : Nat} {r : OwResult} {v : Byte}
    {ok : Bool} {c : Option ByteCall} :
    LineKept s { s with
      mem := m, owSeq := q, bitIndex := bit, byteIndex := byte, pollCount := polls, owResult := r, owByte := v, owOk := ok, owCall := c } :=
  ⟨rfl, rfl, rfl, rfl⟩

theorem LineKept.trans {s t u : State} (h : LineKept s t) (h' : LineKept t u) : LineKept s u :=
  ⟨h'.1.trans h.1, h'.2.trans h.2, h'.3.trans h.3, h'.4.trans h.4⟩

theorem State.storeScratch_lineKept {s t : State} (h : s.storeScratch = some t) : LineKept s t := by
  obtain ⟨m, _, hm⟩ := Option.bind_eq_some_iff.1 h
  split at hm
  · obtain ⟨_, _, rfl⟩ := Option.map_eq_some_iff.1 hm
    exact .moved
  · cases hm
    exact .moved

theorem State.afterByte_lineKept {s t : State} (h : s.afterByte = some t) : LineKept s t := by
  unfold State.afterByte at h
  split at h
  case h_5 => exact State.storeScratch_lineKept h
  all_goals cases h; exact .moved

theorem State.afterBit_lineKept {s t : State} (h : s.afterBit = some t) : LineKept s t := by
  unfold State.afterBit at h
  split at h
  · exact LineKept.moved.trans (State.afterByte_lineKept h)
  · cases h
    exact .moved

theorem State.afterPoll_lineKept (s : State) (r : Bool) : LineKept s (s.afterPoll r) := by
  unfold State.afterPoll
  split
  · exact .moved
  · dsimp only
    split
    · exact .moved
    · split <;> exact .moved

theorem State.afterRead_lineKept {s t : State} {r : Bool} (h : s.afterRead r = some t) : LineKept s t := by
  unfold State.afterRead at h
  split at h
  · cases h
    exact State.afterPoll_lineKept s r
  · exact LineKept.moved.trans (State.afterBit_lineKept h)

theorem State.afterReset_lineKept {s t : State} {present : Bool} (h : s.afterReset present = some t) : LineKept s t := by
  unfold State.afterReset at h
  split at h
  · split at h <;> (cases h; exact .moved)
  · cases h; exact .moved
  · split at h
    · obtain ⟨_, _, rfl⟩ := Option.map_eq_some_iff.1 h
      exact .moved
    · cases h; exact .moved
  all_goals cases h; exact .moved

theorem State.advance_lineKept {s t : State} {slot : Slot} {level : Bool} (h : s.advance slot level = some t) : LineKept s t := by
  cases slot with
  | reset => exact State.afterReset_lineKept h
  | write b => exact State.afterBit_lineKept h
  | read => exact State.afterRead_lineKept h

/-- After a slot the line, the samples and the answer are those of its waveform, in sequence or out of it. -/
theorem State.slot_lineKept {s t : State} {slot : Slot} (h : s.slot slot = some t) : LineKept (s.slotDone slot) t := by
  rw [State.slot_eq] at h
  split at h
  · exact State.advance_lineKept h
  · cases h
    exact .moved

/-! ### What a slot writes of the index spaces -/

/-- A write slot is never due at READSP, so it completes no byte of scratch (R180). -/
theorem slot_write_mem {s t : State} {b : Bool} (h : s.slot (.write b) = some t) : t.mem = s.mem := by
  by_cases hn : s.nextSlot = some (.write b)
  · rw [slot_write_eq hn] at h
    have hq : s.owSeq ≠ .readSp := by
      intro hq
      rw [nextSlot_of_read (by simp only [State.byteCall, hq])] at hn
      cases hn
    exact (afterBit_mem h).2 (.inl hq)
  · rw [State.slot_eq, if_neg hn] at h
    cases h
    rw [State.slotDone_eq]

theorem slot_reset_mem {s t : State} (h : s.slot .reset = some t) : t.mem = s.mem := by
  by_cases hn : s.nextSlot = some .reset
  · rw [slot_reset_eq hn, State.countSample_cases] at h
    exact (State.afterReset_frame h).2
  · rw [State.slot_eq, if_neg hn, State.slotDone_eq, State.countSample_cases] at h
    cases h
    rfl

theorem SameBytes.of_mem {s t : State} (h : t.mem = s.mem) : SameBytes s t := fun _ _ => by rw [h]

/-! ### Each slot from every state (R172 to R174, log 12) -/

/-- A slot the sequencer does not stand at is its waveform and its answer, and nothing else (log 12). -/
theorem exec_slot_out_of_sequence {s : State} {slot : Slot} (h : s.nextSlot ≠ some slot) :
    exec slot.instr s = .next (s.slotDone slot) := by
  rw [exec_slot, State.slot_eq, if_neg h]
  rfl

/-- A slot always answers under the invariant, keeps to the driver's elements, and leaves its waveform's line and answer. -/
theorem exec_slot_completes {s : State} (hs : s.Inv) (slot : Slot) :
    ∃ t, exec slot.instr s = .next t ∧ s.slot slot = some t ∧ DriverFrame s t ∧ LineKept (s.slotDone slot) t := by
  obtain ⟨t, ht⟩ := State.slot_exists hs.scratch_length slot
  exact ⟨t, (exec_slot s slot).trans (finish_eq_next.2 ht), ht, State.slot_frame ht, State.slot_lineKept ht⟩

/-- Settles O27: a slot's line is that of `slotDone_eq`, and its one write is the byte a read completes at READSP. -/
theorem slotsDriveAndSampleTheLine : Obligations.SlotsDriveAndSampleTheLine := by
  refine fun s hs => ⟨?_, fun b => ?_, ?_, fun hn => ?_, fun b hn => ?_, fun hn => ?_⟩
  · obtain ⟨t, hexec, hslot, hframe, hline⟩ := exec_slot_completes hs .reset
    rw [State.slotDone_eq] at hline
    exact ⟨t, hexec, hline.owDrive, hline.result, hline.line.trans s.countSample_line, hframe.bus, hframe.snapshot,
      .of_mem (slot_reset_mem hslot)⟩
  · obtain ⟨t, hexec, hslot, hframe, hline⟩ := exec_slot_completes hs (.write b)
    rw [State.slotDone_eq] at hline
    exact ⟨t, hexec, hline.owDrive, hline.result, hline.line, hline.draws, hframe.bus, hframe.snapshot,
      .of_mem (slot_write_mem hslot)⟩
  · obtain ⟨t, hexec, hslot, hframe, hline⟩ := exec_slot_completes hs .read
    obtain ⟨hwrites, hkeeps⟩ := slot_read_mem hslot
    rw [State.slotDone_eq] at hline
    exact ⟨t, hexec, hline.owDrive, hline.result, hline.line.trans s.countSample_line, hframe.bus, hframe.snapshot,
      hframe.sameBytesBut, fun hq hb => Memory.write_one_peek (hwrites hq hb), fun h => .of_mem (hkeeps h)⟩
  · exact (exec_slot_out_of_sequence hn).trans (congrArg _ (s.slotDone_eq .reset))
  · exact (exec_slot_out_of_sequence hn).trans (congrArg _ (s.slotDone_eq (.write b)))
  · exact (exec_slot_out_of_sequence hn).trans (congrArg _ (s.slotDone_eq .read))

/-! ### The waveforms (R171 to R174) -/

theorem actsDuration_nil : actsDuration [] = 0 := rfl

theorem actsDuration_drive (d : Drive) (acts : List LineAct) : actsDuration (.drive d :: acts) = actsDuration acts := by
  simp [actsDuration]

theorem actsDuration_wait (us : Nat) (acts : List LineAct) : actsDuration (.wait us :: acts) = us + actsDuration acts := by
  simp [actsDuration]

theorem actsDuration_sample (acts : List LineAct) : actsDuration (.sample :: acts) = actsDuration acts := by
  simp [actsDuration]

theorem actsDuration_reset {t : Timing} (h : t.tRstl + t.tPds ≤ t.tRstSlot) : actsDuration (slotActs t .reset) = t.tRstSlot := by
  simp only [slotActs, actsDuration_nil, actsDuration_drive, actsDuration_wait, actsDuration_sample]
  omega

theorem actsDuration_write {t : Timing} (h : t.tW1l ≤ t.tSlot) (b : Bool) : actsDuration (slotActs t (.write b)) = t.tSlot := by
  cases b <;> (simp only [slotActs, actsDuration_nil, actsDuration_drive, actsDuration_wait]; omega)

theorem actsDuration_read (t : Timing) : actsDuration (slotActs t .read) = t.tRl + t.tRs + t.tRrem := by
  simp only [slotActs, actsDuration_nil, actsDuration_drive, actsDuration_wait, actsDuration_sample]
  omega

/-- The waits of a written 0 add up to the whole slot before the line is released (R173). -/
theorem lineEvents_write_zero {t : Timing} (h : t.tW1l ≤ t.tSlot) :
    lineEvents 0 (slotActs t (.write false)) = [.drives 0 .low, .drives t.tSlot .released] := by
  simp only [slotActs, lineEvents, Nat.zero_add, Nat.add_sub_of_le h]

/-- Settles O28: the durations are sums of waits, the events come at their partial sums, and the nominal timings are in order. -/
theorem slotWaveformsLastTheirSlotTimes : Obligations.SlotWaveformsLastTheirSlotTimes := by
  refine ⟨fun t hreset hwrite => ⟨actsDuration_reset hreset, actsDuration_write hwrite, actsDuration_read t⟩,
    fun t => ⟨?_, ?_, lineEvents_write_zero, ?_⟩, rfl, rfl, rfl, rfl, rfl, actsDuration_write (by decide), rfl⟩
  all_goals simp only [slotActs, lineEvents, Nat.zero_add]

end Sys2Proof.Machine

/-! # The temperature of a scratchpad (R183 to R190) -/

namespace Sys2Proof.Machine

/-! ### The temperature decode (R183 to R186) -/

theorem rawOf_toNat (lo hi : Byte) : (rawOf lo hi).toNat = hi.toNat * 256 + lo.toNat := by
  rw [rawOf, BitVec.toNat_append, ← Nat.shiftLeft_add_eq_or_of_lt lo.isLt, Nat.shiftLeft_eq]

theorem integerPartOf_toNat (raw : Half) : (integerPartOf raw).toNat = raw.toNat / 16 % 256 := by
  rw [integerPartOf, BitVec.extractLsb'_toNat, Nat.shiftRight_eq_div_pow]

/-- At most 15 · 625, so the sixteen bits hold the product whole (R185). -/
theorem fractionalPartOf_toNat (raw : Half) : (fractionalPartOf raw).toNat = raw.toNat % 16 * 625 := by
  simp only [fractionalPartOf, BitVec.toNat_mul, BitVec.toNat_setWidth, BitVec.extractLsb'_toNat, Nat.shiftRight_zero, BitVec.toNat_ofNat,
    BitVec.zeroExtend_eq_setWidth]
  omega

/-- Settles O38: the three parts of a decode, each as a number. -/
theorem decodeIsUnsignedFixedPoint : Obligations.DecodeIsUnsignedFixedPoint :=
  fun lo hi _ => ⟨decodeRaw (rawOf lo hi), rfl, rawOf_toNat lo hi, integerPartOf_toNat _, fractionalPartOf_toNat _⟩

/-! ### The scratchpads of all zeros and all ones (R189) -/

/-- A scratchpad of nine equal bytes passes its check exactly when the byte is the CRC of eight of them. -/
theorem verify_replicate (mode : IntegrityMode) (v : Variant) (b : Byte) (n : Nat) :
    verify mode v (List.replicate (n + 1) b) n = some (decide (crc mode v (List.replicate n b) = b)) := by
  have h := verify_trailing mode v (List.replicate n b) [] b
  rwa [← List.replicate_succ', List.length_replicate] at h

theorem crc_ow_zeros (mode : IntegrityMode) : crc mode .ow (List.replicate 8 0x00) = 0x00 := by rw [crc_eq_foldl]; decide

theorem crc_ow_ones (mode : IntegrityMode) : crc mode .ow (List.replicate 8 0xFF) = 0xC9 := by rw [crc_eq_foldl]; decide

/-- Settles O39: the CRC of eight zeros is the ninth zero, and that of eight 0xFF bytes is 0xC9. -/
theorem scratchpadCornerCases : Obligations.ScratchpadCornerCases := by
  refine fun mode => ⟨?_, rfl, crc_ow_ones mode, ?_⟩
  · rw [verify_replicate, crc_ow_zeros]
    rfl
  · rw [verify_replicate, crc_ow_ones]
    rfl

end Sys2Proof.Machine

/-! # The byte operations (R175, R176)

A byte operation is eight slots, least significant bit first. The state it leaves is known exactly but for the sequencer's move after the eighth
slot, so one lemma for a byte written and one for a byte read serve the calls at rest and the positions of an acquisition. -/

namespace Sys2Proof.Machine

/-! ### Starting at rest (R177, R217) -/

/-- A driver at rest starts the acquisition it is asked for (R177). -/
theorem execAcquireTemperature_at_rest {s : State} (h : s.acquiring = false) :
    exec .acquireTemperature s = .next (s.answer .none).startAcquisition :=
  if_neg (Bool.eq_false_iff.1 h)

theorem State.callByte_of_busy {s : State} (h : s.driverBusy = true) (c : ByteCall) : s.callByte c = .refused .driverBusy := if_pos h

/-- Settles O33: the start and the byte calls each look at whether the driver is at rest. -/
theorem acquisitionStartsOnlyAtRest : Obligations.AcquisitionStartsOnlyAtRest := by
  refine ⟨fun s hq => execAcquireTemperature_at_rest (s.acquiring_eq_false.2 hq), fun s hidle hdone => ?_, fun s i hb hi => ?_⟩
  · have hrest : ¬ s.acquiring = false := fun h => (s.acquiring_eq_false.1 h).elim hidle hdone
    exact if_pos (Bool.eq_true_of_not_eq_false hrest)
  · obtain rfl | ⟨_, rfl⟩ | rfl | rfl | rfl := hi <;> exact State.callByte_of_busy hb _

/-! ### Runs of slots -/

theorem runSlots_one (s : State) : runSlots 1 s = mainLoopStep s := by
  rw [runSlots]
  cases mainLoopStep s <;> rfl

/-- One more slot at the end of a run. -/
theorem runSlots_concat {s t : State} {n : Nat} (h : runSlots n s = .next t) : runSlots (n + 1) s = mainLoopStep t := by
  rw [runSlots_add 1 h, runSlots_one]

/-- A list taken apart at its last element. -/
theorem exists_concat_of_length {α : Type} {l : List α} {n : Nat} (h : l.length = n + 1) : ∃ init x, l = init ++ [x] ∧ init.length = n := by
  obtain rfl | ⟨init, x, rfl⟩ := l.eq_nil_or_concat'
  · cases h
  · exact ⟨init, x, rfl, by simpa using h⟩

/-! ### A byte written (R175) -/

/-- The first `k` bits of a byte written: only the line, the answer and the bit index have changed. -/
theorem runSlots_write_bits {s : State} {v : Byte} (h : s.byteCall = some (.write v)) (hb : s.bitIndex = 0) (k : Fin 8) :
    ∃ d a, runSlots k s = .next { s with owDrive := d, result := a, bitIndex := k } := by
  induction k using Fin.induction with
  | zero => exact ⟨s.owDrive, s.result, (runSlots_zero s).trans (by rw [← hb])⟩
  | succ k ih =>
    obtain ⟨d, a, hrun⟩ := ih
    refine ⟨.released, .none, ?_⟩
    rw [Fin.val_succ, ← Fin.coeSucc_eq_succ]
    exact (runSlots_concat hrun).trans (write_step (by exact h) (Fin.castSucc_lt_last k).ne)

/-- A whole byte written: eight slots, and the move after the eighth. -/
theorem runSlots_write_byte {s : State} {v : Byte} (h : s.byteCall = some (.write v)) (hb : s.bitIndex = 0) :
    runSlots 8 s = finish ({ s with owDrive := .released, result := .none, bitIndex := 0 } : State).afterByte := by
  obtain ⟨d, a, hrun⟩ := runSlots_write_bits h hb 7
  exact (runSlots_concat hrun).trans (write_last (by exact h) rfl)

/-! ### A byte read (R176) -/

/-- The byte under assembly holds the samples so far, the first at bit 0, and 0 above them; before the first sample it is still whatever
was read last. -/
def Assembled (v : Byte) (bits : List Bool) : Prop := bits ≠ [] → ∀ i, v.getLsbD i = bits.getD i false

theorem assembled_nil (v : Byte) : Assembled v [] := fun h => absurd rfl h

/-- A sample stands at its own bit of the byte, and nowhere else. -/
theorem sampleBit_getLsbD (b : Bool) (k : Fin 8) (i : Nat) :
    ((if b then 1#8 else 0#8) <<< k.val).getLsbD i = (decide (i = k) && b) := by
  cases b with
  | false => simp
  | true =>
    simp only [if_true, BitVec.getLsbD_shiftLeft, BitVec.getLsbD_one, Bool.and_true]
    grind

/-- A sample joins the byte at the next bit. -/
theorem Assembled.concat {v : Byte} {bits : List Bool} {k : Fin 8} (h : Assembled v bits) (hk : bits.length = k) (b : Bool) :
    Assembled (assembleBit v k b) (bits ++ [b]) := by
  intro _ i
  have hbelow : (if k = 0 then 0 else v).getLsbD i = bits.getD i false := by
    split
    · obtain rfl : bits = [] := List.length_eq_zero_iff.1 (hk.trans (congrArg Fin.val ‹k = 0›))
      simp
    · exact h (by rintro rfl; exact ‹¬ k = 0› (Fin.ext hk.symm)) i
  rw [assembleBit, BitVec.getLsbD_or, hbelow, sampleBit_getLsbD]
  obtain hi | hi | hi := Nat.lt_trichotomy i bits.length
  · rw [List.getD_append _ _ _ _ hi, decide_eq_false (by omega), Bool.false_and, Bool.or_false]
  · rw [hi, List.getD_eq_default _ _ (Nat.le_refl _), List.getD_append_right _ _ _ _ (Nat.le_refl _), Nat.sub_self, hk]
    simp
  · rw [List.getD_eq_default _ _ hi.le, List.getD_eq_default _ _ (by simpa using hi), decide_eq_false (by omega)]
    simp

/-- The samples of a bit list read from bit 0 on, the last of the byte still to come. -/
theorem runSlots_read_bits {s : State} (h : s.byteCall = some .read) (hb : s.bitIndex = 0) (k : Fin 8) {bits rest : List Bool}
    (hl : s.line = bits ++ rest) (hk : bits.length = k) :
    ∃ d a v, Assembled v bits ∧ runSlots k s =
      .next { s with owDrive := d, result := a, line := rest, owByte := v, bitIndex := k } := by
  induction k using Fin.induction generalizing bits rest with
  | zero =>
    obtain rfl := List.length_eq_zero_iff.1 hk
    exact ⟨s.owDrive, s.result, s.owByte, assembled_nil _,
      (runSlots_zero s).trans (by rw [← hb, ← show s.line = rest from hl])⟩
  | succ k ih =>
    obtain ⟨init, b, rfl, hinit⟩ := exists_concat_of_length hk
    obtain ⟨d, a, v, hv, hrun⟩ := ih (rest := b :: rest) (by rw [hl, List.append_assoc]; rfl) hinit
    refine ⟨.released, .bit b, _, hv.concat (k := k.castSucc) hinit b, ?_⟩
    rw [Fin.val_succ, ← Fin.coeSucc_eq_succ]
    exact (runSlots_concat hrun).trans (read_step (by exact h) (Fin.castSucc_lt_last k).ne rfl)

/-- A whole byte read: eight slots assemble their samples, the eighth answers the highest bit, and the sequencer moves after it. -/
theorem runSlots_read_byte {s : State} {bits rest : List Bool} (h : s.byteCall = some .read) (hb : s.bitIndex = 0)
    (hl : s.line = bits ++ rest) (hk : bits.length = 8) :
    ∃ v, Assembled v bits ∧ runSlots 8 s = finish ({ s with
      owDrive := .released, result := .bit (v.getLsbD 7), line := rest, owByte := v, bitIndex := 0 } : State).afterByte := by
  obtain ⟨init, b, rfl, hinit⟩ := exists_concat_of_length hk
  obtain ⟨d, a, v, hv, hrun⟩ := runSlots_read_bits h hb 7 (bits := init) (rest := b :: rest) (by rw [hl, List.append_assoc]; rfl) hinit
  have hbyte := hv.concat (k := 7) hinit b
  have hlast : (assembleBit v 7 b).getLsbD 7 = b := by
    rw [hbyte (by simp), List.getD_append_right _ _ _ _ hinit.le, hinit]
    rfl
  refine ⟨_, hbyte, ?_⟩
  rw [hlast]
  exact (runSlots_concat hrun).trans (read_last (by exact h) rfl rfl)

/-! ### Byte operations outside an acquisition -/

theorem State.byteCall_at_rest {s : State} (h : s.acquiring = false) : s.byteCall = s.owCall := by
  unfold State.byteCall
  obtain hq | hq := s.acquiring_eq_false.1 h <;> rw [hq]

theorem State.afterByte_at_rest {s : State} (h : s.acquiring = false) : s.afterByte = some { s with owCall := none } := by
  unfold State.afterByte
  obtain hq | hq := s.acquiring_eq_false.1 h <;> rw [hq]

theorem State.nextSlot_at_rest {s : State} (h : s.acquiring = false) (hc : s.owCall = none) : s.nextSlot = none :=
  State.nextSlot_of_not_busy (by rw [State.driverBusy, h, hc]; rfl)

theorem State.acquiring_of_not_busy {s : State} (h : s.driverBusy = false) : s.acquiring = false :=
  (Bool.or_eq_false_iff.1 h).1

/-- A byte operation just started is the one the driver is inside of. -/
theorem State.startByteCall_byteCall {s : State} (h : s.acquiring = false) (c : ByteCall) : (s.startByteCall c).byteCall = some c :=
  State.byteCall_at_rest h

/-- Settles O30: bit `k` of the byte stands in the slot due after `k` slots, and after eight the call has ended. -/
theorem writeByteSendsLeastSignificantBitFirst : Obligations.WriteByteSendsLeastSignificantBitFirst := by
  intro s v hbusy
  have hrest := State.acquiring_of_not_busy hbusy
  have hcall := State.startByteCall_byteCall (s := s.answer .none) hrest (.write v)
  refine ⟨_, State.callByte_of_not_busy hbusy (.write v), fun k hk => ?_, ?_⟩
  · obtain ⟨d, a, hrun⟩ := runSlots_write_bits hcall rfl ⟨k, hk⟩
    exact ⟨_, hrun, nextSlot_of_write hcall⟩
  · have hrun := runSlots_write_byte hcall rfl
    rw [State.afterByte_at_rest (by exact hrest)] at hrun
    exact ⟨_, hrun, State.nextSlot_at_rest hrest rfl, rfl, ⟨rfl, rfl, rfl, rfl, rfl, rfl⟩, rfl, .of_mem rfl⟩

/-- The assembled byte, bit by bit, once all eight samples are in. -/
theorem Assembled.getElem? {v : Byte} {bits : List Bool} (h : Assembled v bits) {i : Nat} (hi : i < bits.length) :
    bits[i]? = some (v.getLsbD i) := by
  rw [h (List.ne_nil_of_length_pos (by omega)), List.getD_eq_getElem _ _ hi, List.getElem?_eq_getElem hi]

/-- Settles O32: the eight samples are the bits of the assembled byte, and after them the call has ended. -/
theorem readByteAssemblesLeastSignificantBitFirst : Obligations.ReadByteAssemblesLeastSignificantBitFirst := by
  intro s bits rest hbusy hlen hline
  have hrest := State.acquiring_of_not_busy hbusy
  have hcall := State.startByteCall_byteCall (s := s.answer .none) hrest .read
  obtain ⟨v, hv, hrun⟩ := runSlots_read_byte hcall rfl hline hlen
  rw [State.afterByte_at_rest (by exact hrest)] at hrun
  exact ⟨_, _, State.callByte_of_not_busy hbusy .read, hrun, fun i hi => hv.getElem? (hlen ▸ hi), rfl,
    State.nextSlot_at_rest hrest rfl, ⟨rfl, rfl, rfl, rfl, rfl, rfl⟩, rfl, .of_mem rfl⟩

end Sys2Proof.Machine

/-! # A whole acquisition (R177 to R182, R188)

Each stage is a run of slots from one position of the sequence to a later one, with the state it leaves written out; the stages are chained, and
the statements are read off the last state. -/

namespace Sys2Proof.Machine

/-! ### The resets (R177, R178, R182) -/

/-- The reset slot at RESET1: a 0 on the line is the sensor's presence (R178). -/
theorem mainLoopStep_reset1 {s : State} {b : Bool} {l : List Bool} (hq : s.owSeq = .reset1) (hl : s.line = b :: l) :
    mainLoopStep s = .next (if b then
        { s with owDrive := .released, result := .flag (!b), line := l, owResult := .sensorReadError, owSeq := .done }
      else { s with owDrive := .released, result := .flag (!b), line := l, owSeq := .skip1, bitIndex := 0 }) := by
  refine reset_step (by simp only [State.nextSlot, hq]) hl ?_
  simp only [State.afterReset, hq]
  cases b <;> rfl

/-- The reset slot at RESET2, whose presence is not looked at (R177). -/
theorem mainLoopStep_reset2 {s : State} {b : Bool} {l : List Bool} (hq : s.owSeq = .reset2) (hl : s.line = b :: l) :
    mainLoopStep s = .next { s with owDrive := .released, result := .flag (!b), line := l, owSeq := .skip2, bitIndex := 0 } := by
  refine reset_step (by simp only [State.nextSlot, hq]) hl ?_
  simp only [State.afterReset, hq]

/-- The reset slot at RESET3 sets the result the check decided (R182). -/
theorem mainLoopStep_reset3 {s : State} {b : Bool} {l : List Bool} {t : Temperature} (hq : s.owSeq = .reset3) (hl : s.line = b :: l)
    (ht : decodeScratch s.mem.scratch = some t) :
    mainLoopStep s = .next { s with
      owDrive := .released, result := .flag (!b), line := l, owResult := if s.owOk then .ok t else .sensorReadError, owSeq := .done } := by
  refine reset_step (by simp only [State.nextSlot, hq]) hl ?_
  simp only [State.afterReset, hq, ht]
  cases s.owOk <;> rfl

/-- Settles O34: a 1 sampled at RESET1 is the absence of the sensor. -/
theorem absentSensorEndsAcquisition : Obligations.AbsentSensorEndsAcquisition := by
  intro s rest hq hline
  have hrun := mainLoopStep_reset1 (s := (s.answer .none).startAcquisition) rfl hline
  rw [← runSlots_one] at hrun
  exact ⟨_, _, execAcquireTemperature_at_rest (s.acquiring_eq_false.2 hq), hrun, rfl, rfl, State.nextSlot_at_rest rfl rfl, rfl, rfl,
    ⟨rfl, rfl, rfl, rfl, rfl, rfl⟩, rfl, .of_mem rfl⟩

/-! ### The poll (R179, R188) -/

/-- A poll that reads 0 below the limit, or without one, counts and stays. -/
theorem State.afterPoll_below_limit {s : State} (h : ∀ k, s.params.pollLimit = some k → s.pollCount + 1 < k) :
    s.afterPoll false = { s with pollCount := s.pollCount + 1 } := by
  cases hp : s.params.pollLimit with
  | none => exact State.afterPoll_zero hp
  | some k => simp only [State.afterPoll, Bool.false_eq_true, if_false, hp, if_neg (Nat.not_le.2 (h k hp))]

/-- Any number of polls that read 0 below the limit, or without one: only the line, the answer and the count have changed. -/
theorem runSlots_poll_zeros {s : State} {n : Nat} {rest : List Bool} (hq : s.owSeq = .poll)
    (hk : ∀ k, s.params.pollLimit = some k → s.pollCount + n < k) (hl : s.line = List.replicate n false ++ rest) :
    ∃ d a, runSlots n s = .next { s with owDrive := d, result := a, line := rest, pollCount := s.pollCount + n } := by
  induction n generalizing rest with
  | zero => exact ⟨s.owDrive, s.result, (runSlots_zero s).trans (by rw [← show s.line = rest from hl]; rfl)⟩
  | succ n ih =>
    obtain ⟨d, a, hrun⟩ := ih (rest := false :: rest) (fun k hp => by have := hk k hp; omega)
      (by rw [hl, List.replicate_succ', List.append_assoc]; rfl)
    refine ⟨.released, .bit false, ?_⟩
    rw [runSlots_concat hrun, poll_step (by exact hq) rfl, State.afterPoll_below_limit]
    · rfl
    · exact fun k hp => Nat.add_assoc _ _ _ ▸ hk k hp

/-- An unbounded poll whole: zeros, and then the 1 that leaves the loop (R179). -/
theorem runSlots_poll_ends {s : State} {n : Nat} {rest : List Bool} (hq : s.owSeq = .poll) (hp : s.params.pollLimit = none)
    (hl : s.line = List.replicate n false ++ true :: rest) :
    runSlots (n + 1) s = .next { s with
      owDrive := .released, result := .bit true, line := rest, owSeq := .reset2, pollCount := s.pollCount + n } := by
  obtain ⟨d, a, hrun⟩ := runSlots_poll_zeros hq (by simp [hp]) hl
  rw [runSlots_concat hrun, poll_step (by exact hq) rfl]
  rfl

/-- Settles O35: the zeros by induction on their number, then the 1. -/
theorem pollWaitsForTheFirstOne : Obligations.PollWaitsForTheFirstOne := by
  intro s n rest hq hp hl
  constructor
  · obtain ⟨d, a, hrun⟩ := runSlots_poll_zeros hq (by simp [hp]) hl
    exact ⟨_, hrun, hq, rfl, rfl, rfl, ⟨rfl, rfl, rfl, rfl, rfl, rfl⟩, rfl, .of_mem rfl⟩
  · rintro rest' rfl
    exact ⟨_, runSlots_poll_ends hq hp hl, rfl, rfl, rfl⟩

/-! ### From a reset through two function codes (R177) -/

/-- A reset slot and the two bytes written after it: one slot, and eight for each byte. -/
theorem runSlots_reset_write_write {s t u : State} {v w : Byte} (hreset : mainLoopStep s = .next t)
    (hv : t.byteCall = some (.write v)) (hbv : t.bitIndex = 0)
    (hu : ({ t with owDrive := .released, result := .none, bitIndex := 0 } : State).afterByte = some u)
    (hw : u.byteCall = some (.write w)) (hbw : u.bitIndex = 0) :
    runSlots 17 s = finish ({ u with owDrive := .released, result := .none, bitIndex := 0 } : State).afterByte :=
  calc runSlots (1 + (8 + 8)) s
      = runSlots (8 + 8) t := runSlots_add _ ((runSlots_one s).trans hreset)
    _ = runSlots 8 u := runSlots_add _ ((runSlots_write_byte hv hbv).trans (congrArg finish hu))
    _ = _ := runSlots_write_byte hw hbw

/-- RESET1 with presence, SKIP1 and CONVERT: to the poll. -/
theorem runSlots_to_poll {s : State} {l : List Bool} (hq : s.owSeq = .reset1) (hl : s.line = false :: l) :
    runSlots 17 s = .next { s with
      owDrive := .released, result := .none, line := l, owSeq := .poll, bitIndex := 0, pollCount := 0 } :=
  runSlots_reset_write_write (v := skipRomCode) (w := convertTCode) (mainLoopStep_reset1 hq hl) rfl rfl rfl rfl rfl

/-- RESET2, SKIP2 and READCMD: to the scratchpad. -/
theorem runSlots_to_readSp {s : State} {b : Bool} {l : List Bool} (hq : s.owSeq = .reset2) (hl : s.line = b :: l) :
    runSlots 17 s = .next { s with
      owDrive := .released, result := .none, line := l, owSeq := .readSp, bitIndex := 0, byteIndex := 0 } :=
  runSlots_reset_write_write (v := skipRomCode) (w := readScratchpadCode) (mainLoopStep_reset2 hq hl) rfl rfl rfl rfl rfl

/-! ### The scratchpad (R180, R181) -/

/-- The index spaces once the first bytes of scratch have been read from the sensor. -/
def Memory.filled (m : Memory) (bytes : List Byte) : Memory := m.setSpace .scratch (bytes ++ m.scratch.drop bytes.length)

@[simp] theorem Memory.filled_nil (m : Memory) : m.filled [] = m := rfl

theorem Memory.filled_all {m : Memory} {bytes : List Byte} (h : m.scratch.length = bytes.length) :
    m.filled bytes = m.setSpace .scratch bytes := by
  rw [Memory.filled, ← h, List.drop_length, List.append_nil]

/-- The next byte of scratch stored (R180). -/
theorem Memory.filled_write {m : Memory} {bytes : List Byte} (h : bytes.length < m.scratch.length) (b : Byte) :
    (m.filled bytes).write .scratch bytes.length [b] = some (m.filled (bytes ++ [b])) := by
  have hspace : (m.filled bytes).scratch = bytes ++ m.scratch.drop bytes.length := rfl
  rw [Memory.write_of_le (by simp [hspace]; omega)]
  simp [Memory.filled, Memory.setSpace, List.drop_append, List.drop_drop]

theorem wireBits_concat (bytes : List Byte) (b : Byte) : wireBits (bytes ++ [b]) = wireBits bytes ++ wireBits [b] :=
  List.flatMap_append

theorem wireBits_length (b : Byte) : (wireBits [b]).length = 8 := by simp [wireBits]

/-- The bits a byte has on the line assemble to the byte again (R78). -/
theorem Assembled.eq_of_wireBits {v b : Byte} (h : Assembled v (wireBits [b])) : v = b := by
  refine BitVec.eq_of_getLsbD_eq fun i hi => ?_
  have hget := h.getElem? (wireBits_length b ▸ hi)
  simpa [wireBits, hi, eq_comm] using hget

theorem State.afterByte_readSp {s : State} (h : s.owSeq = .readSp) : s.afterByte = s.storeScratch := by
  simp only [State.afterByte, h]

/-- A scratchpad byte read: eight slots, and the byte goes to be stored. -/
theorem runSlots_readSp_byte {s : State} {b : Byte} {l : List Bool} (hq : s.owSeq = .readSp) (hb : s.bitIndex = 0)
    (hl : s.line = wireBits [b] ++ l) :
    runSlots 8 s = finish ({ s with
      owDrive := .released, result := .bit (b.getLsbD 7), line := l, owByte := b, bitIndex := 0 } : State).storeScratch := by
  obtain ⟨v, hv, hrun⟩ := runSlots_read_byte (by simp only [State.byteCall, hq]) hb hl (wireBits_length b)
  obtain rfl := hv.eq_of_wireBits
  exact hrun.trans (congrArg finish (State.afterByte_readSp (by exact hq)))

/-- A scratchpad byte before the ninth is stored, and the next one follows (R180). -/
theorem runSlots_readSp_next {s : State} {b : Byte} {l : List Bool} {m : Memory} (hq : s.owSeq = .readSp) (hb : s.bitIndex = 0)
    (hl : s.line = wireBits [b] ++ l) (hi : s.byteIndex.val ≠ 8) (hm : s.mem.write .scratch s.byteIndex [b] = some m) :
    runSlots 8 s = .next { s with
      mem := m, owDrive := .released, result := .bit (b.getLsbD 7), line := l, owByte := b, bitIndex := 0,
      byteIndex := s.byteIndex + 1 } := by
  rw [runSlots_readSp_byte hq hb hl, State.storeScratch, hm, Option.bind_some, if_neg (by exact hi)]
  rfl

/-- The ninth scratchpad byte is stored, and the scratchpad checked (R181). -/
theorem runSlots_readSp_last {s : State} {b : Byte} {l : List Bool} {m : Memory} {ok : Bool} (hq : s.owSeq = .readSp)
    (hb : s.bitIndex = 0) (hl : s.line = wireBits [b] ++ l) (hi : s.byteIndex.val = 8)
    (hm : s.mem.write .scratch s.byteIndex [b] = some m) (hv : verify s.params.integrityMode .ow m.scratch 8 = some ok) :
    runSlots 8 s = .next { s with
      mem := m, owDrive := .released, result := .bit (b.getLsbD 7), line := l, owByte := b, bitIndex := 0, byteIndex := 0,
      owOk := ok, owSeq := .reset3 } := by
  rw [runSlots_readSp_byte hq hb hl, State.storeScratch, hm, Option.bind_some, if_pos (by exact hi), hv]
  rfl

/-- The first bytes of the scratchpad, fewer than nine. -/
theorem runSlots_readSp_bytes {s : State} (hq : s.owSeq = .readSp) (hb : s.bitIndex = 0) (hi : s.byteIndex = 0)
    (hs : s.mem.scratch.length = scratchCap) (k : Fin 9) {bytes : List Byte} {l : List Bool} (hk : bytes.length = k)
    (hl : s.line = wireBits bytes ++ l) :
    ∃ d a v, runSlots (8 * k) s = .next { s with
      mem := s.mem.filled bytes, owDrive := d, result := a, line := l, owByte := v, byteIndex := k, bitIndex := 0 } := by
  induction k using Fin.induction generalizing bytes l with
  | zero =>
    obtain rfl := List.length_eq_zero_iff.1 hk
    refine ⟨s.owDrive, s.result, s.owByte, (runSlots_zero s).trans ?_⟩
    rw [Memory.filled_nil, ← hb, ← hi, ← show s.line = l from hl]
  | succ k ih =>
    obtain ⟨init, b, rfl, hinit⟩ := exists_concat_of_length hk
    obtain ⟨d, a, v, hrun⟩ := ih (l := wireBits [b] ++ l) hinit (by rw [hl, wireBits_concat, List.append_assoc])
    have hwrite := Memory.filled_write (m := s.mem) (bytes := init) (by rw [hs, hinit]; exact k.castSucc.isLt) b
    rw [hinit] at hwrite
    refine ⟨.released, .bit (b.getLsbD 7), b, ?_⟩
    rw [Fin.val_succ, ← Fin.coeSucc_eq_succ]
    exact (runSlots_add 8 hrun).trans (runSlots_readSp_next (by exact hq) rfl rfl (by exact k.isLt.ne) (by exact hwrite))

/-- READSP whole: nine bytes into scratch, and the check of the ninth against the CRC of the others. -/
theorem runSlots_readSp {s : State} {data : List Byte} {x : Byte} {l : List Bool} {ok : Bool} (hq : s.owSeq = .readSp)
    (hb : s.bitIndex = 0) (hi : s.byteIndex = 0) (hs : s.mem.scratch.length = scratchCap) (hlen : data.length = 8)
    (hl : s.line = wireBits (data ++ [x]) ++ l) (hv : verify s.params.integrityMode .ow (data ++ [x]) 8 = some ok) :
    runSlots 72 s = .next { s with
      mem := s.mem.setSpace .scratch (data ++ [x]), owDrive := .released, result := .bit (x.getLsbD 7), line := l, owByte := x,
      bitIndex := 0, byteIndex := 0, owOk := ok, owSeq := .reset3 } := by
  obtain ⟨d, a, v, hrun⟩ := runSlots_readSp_bytes hq hb hi hs 8 (l := wireBits [x] ++ l) hlen
    (by rw [hl, wireBits_concat, List.append_assoc])
  have hwrite := Memory.filled_write (m := s.mem) (bytes := data) (by rw [hs, hlen]; decide) x
  rw [hlen, Memory.filled_all (bytes := data ++ [x]) (by rw [hs, List.length_append, hlen]; rfl)] at hwrite
  exact (runSlots_add 8 hrun).trans (runSlots_readSp_last (by exact hq) rfl rfl rfl (by exact hwrite) (by exact hv))

/-! ### The end of an acquisition (R182) -/

/-- A scratchpad of two bytes or more decodes by its first two (R183). -/
theorem decodeScratch_of_le {bytes : List Byte} (h : 2 ≤ bytes.length) :
    decodeScratch bytes = some (decodeRaw (rawOf (bytes.getD 0 0) (bytes.getD 1 0))) := by
  match bytes, h with
  | _ :: _ :: _, _ => rfl

theorem SameBytesBut.of_setSpace {s t : State} {sp : Space} {bs : List Byte} (h : t.mem = s.mem.setSpace sp bs) : SameBytesBut sp s t := by
  intro sp' k hne
  rw [h, Memory.peek, Memory.space_setSpace_other _ _ hne, Memory.peek]

/-- An acquisition up to RESET3, stage by stage: `17 + (n + 1) + 17 + 72` slots (R177). -/
theorem runSlots_to_reset3 {s : State} {n : Nat} {data : List Byte} {x : Byte} {b : Bool} {l : List Bool} {ok : Bool}
    (hq : s.owSeq = .reset1) (hp : s.params.pollLimit = none) (hs : s.mem.scratch.length = scratchCap) (hlen : data.length = 8)
    (hl : s.line = false :: (List.replicate n false ++ true :: b :: (wireBits (data ++ [x]) ++ l)))
    (hv : verify s.params.integrityMode .ow (data ++ [x]) 8 = some ok) :
    runSlots (107 + n) s = .next { s with
      mem := s.mem.setSpace .scratch (data ++ [x]), owDrive := .released, result := .bit (x.getLsbD 7), line := l, owByte := x,
      bitIndex := 0, byteIndex := 0, pollCount := 0 + n, owOk := ok, owSeq := .reset3 } :=
  calc runSlots (107 + n) s
      = runSlots (17 + ((n + 1) + (17 + 72))) s := congrArg (runSlots · s) (by omega)
    _ = runSlots ((n + 1) + (17 + 72)) _ := runSlots_add _ (runSlots_to_poll hq hl)
    _ = runSlots (17 + 72) _ := runSlots_add _ (runSlots_poll_ends rfl (by exact hp) rfl)
    _ = runSlots 72 _ := runSlots_add _ (runSlots_to_readSp rfl rfl)
    _ = _ := runSlots_readSp rfl rfl rfl (by exact hs) hlen rfl (by exact hv)

/-- Settles O36: the stages up to RESET3, and the reset slot that sets the result. -/
theorem acquisitionRunsToItsResult : Obligations.AcquisitionRunsToItsResult := by
  intro s n bytes r2 r3 rest hs hrest hp hlen hline
  obtain ⟨data, x, rfl, hdata⟩ := exists_concat_of_length hlen
  obtain ⟨ok, hok⟩ : ∃ ok, verify s.params.integrityMode .ow (data ++ [x]) 8 = some ok := ⟨_, verify_of_lt (by omega)⟩
  have hrun := runSlots_to_reset3 (s := (s.answer .none).startAcquisition) rfl hp hs.scratch_length hdata hline hok
  have hdecode := decodeScratch_of_le (bytes := data ++ [x]) (by omega)
  have hend := runSlots_concat hrun
  rw [mainLoopStep_reset3 rfl rfl (by exact hdecode), Nat.add_right_comm] at hend
  refine ⟨_, _, _, execAcquireTemperature_at_rest hrest, hrun, rfl, rfl, hend, rfl, Nat.zero_add n, rfl, rfl, fun hv => ?_, fun hv => ?_,
    ⟨rfl, rfl, rfl, rfl, rfl, rfl⟩, rfl, .of_setSpace rfl⟩
  · obtain rfl : ok = true := Option.some.inj (hok.symm.trans hv)
    rfl
  · obtain rfl : ok = false := Option.some.inj (hok.symm.trans hv)
    rfl

/-! ### The POLL_LIMIT variant (R188, log 18) -/

/-- The poll that reaches the limit goes to RESET3 with a failed check. -/
theorem State.afterPoll_at_limit {s : State} {k : Nat} (h : s.params.pollLimit = some k) (hk : s.pollCount + 1 = k) :
    s.afterPoll false = { s with pollCount := s.pollCount + 1, owSeq := .reset3, owOk := false } := by
  simp only [State.afterPoll, Bool.false_eq_true, if_false, h, if_pos hk.ge]

/-- An admitted limit is at least 1 (R188). -/
theorem State.Inv.pollLimit_pos {s : State} {k : Nat} (hs : s.Inv) (h : s.params.pollLimit = some k) : 0 < k := by
  obtain ⟨_, _, hvalid⟩ := (admitted_iff _).1 hs.admitted
  exact Nat.pos_of_ne_zero fun h0 => (pollLimitValid_iff _).1 hvalid (h0 ▸ h)

/-- The polls of the variant: the last of them reaches the limit (R188). -/
theorem runSlots_poll_limit {s : State} {k : Nat} {l : List Bool} (hq : s.owSeq = .poll) (hp : s.params.pollLimit = some k)
    (hk : 0 < k) (hc : s.pollCount = 0) (hl : s.line = List.replicate k false ++ l) :
    runSlots k s = .next { s with
      owDrive := .released, result := .bit false, line := l, pollCount := k, owSeq := .reset3, owOk := false } := by
  obtain ⟨n, rfl⟩ := Nat.exists_eq_add_of_lt hk
  obtain ⟨d, a, hrun⟩ := runSlots_poll_zeros (n := n) (rest := false :: l) hq (by simp [hp, hc])
    (by rw [hl, Nat.zero_add, List.replicate_succ', List.append_assoc]; rfl)
  rw [Nat.zero_add] at hp ⊢
  rw [runSlots_concat hrun, poll_step (by exact hq) rfl, State.afterPoll_at_limit (by exact hp) (by simp [hc])]
  simp [hc]

/-- Settles O37: RESET1 to the poll, as many polls as the limit, and the reset slot of a failed check. -/
theorem pollLimitVariantEnds : Obligations.PollLimitVariantEnds := by
  intro s k r3 rest hs hrest hp hline
  have hrun := (runSlots_add k (runSlots_to_poll (s := (s.answer .none).startAcquisition) rfl hline)).trans
    (runSlots_poll_limit rfl (by exact hp) (hs.pollLimit_pos hp) rfl rfl)
  obtain ⟨t, ht⟩ := decodeScratch_exists (bytes := s.mem.scratch) (by rw [hs.scratch_length]; decide)
  have hend := runSlots_concat hrun
  rw [mainLoopStep_reset3 rfl rfl (by exact ht), Nat.add_right_comm] at hend
  exact ⟨_, _, _, execAcquireTemperature_at_rest hrest, hrun, rfl, hend, rfl, rfl, rfl, .of_mem rfl⟩

end Sys2Proof.Machine

/-! # The host ports and the sampling loop (R211 to R216) -/

namespace Sys2Proof.Machine

/-! ### The ports (R211 to R215) -/

theorem exec_qerr (s : State) : exec .qerr s = .next { s with result := .flag s.error } := rfl

theorem exec_clr (s : State) : exec .clr s = .next { s with result := .none, error := false } := rfl

theorem exec_en (s : State) (v : Bool) : exec (.en v) s = .next { s with result := .none, enable := v } := rfl

theorem exec_pub (s : State) (snap : Snapshot) : exec (.pub snap) s = .next { s with result := .none, snapshot := snap } := rfl

theorem exec_chan (s : State) : exec .chan s = .next { s with result := .bytes s.mem.bank } := rfl

/-- Settles O40: the next state of each port. -/
theorem hostPortsActAsStated : Obligations.HostPortsActAsStated :=
  fun s => ⟨exec_qerr s, exec_clr s, exec_en s, exec_pub s, exec_chan s⟩

/-! ### The sampling loop (R216) -/

/-- A temperature is published with the other fields copied from the current snapshot (log 28). -/
theorem samplingDuty_of_ok {s : State} {t : Temperature} (h : s.owResult = .ok t) :
    samplingDuty s = some (.pub { s.snapshot with temperature := t }) := by
  simp only [samplingDuty, h]

/-- A failed acquisition posts no publication (log 28). -/
theorem samplingDuty_of_sensorReadError {s : State} (h : s.owResult = .sensorReadError) : samplingDuty s = none := by
  simp only [samplingDuty, h]

/-- Settles O43: on Ok the duty is a PublishSnapshot, whose next state is R214's; on SensorReadError there is no duty to run. -/
theorem samplingDutyKeepsStaleValues : Obligations.SamplingDutyKeepsStaleValues :=
  fun s => ⟨fun _ hok => ⟨_, samplingDuty_of_ok hok, exec_pub s _⟩, samplingDuty_of_sensorReadError⟩

end Sys2Proof.Machine

/-! # Reset, and the error flag along a run (R260, R267) -/

namespace Sys2Proof.Machine

/-! ### Reset (R260) -/

theorem exec_rst (s : State) : exec .rst s = .next s.resetAction := rfl

/-- After Reset each index space has its capacity, whichever free bytes it holds (log 6). -/
theorem resetMemory_wf (p : Params) (draws : Nat) : (resetMemory p draws).wf p = true := by
  refine (Memory.wf_iff p _).2 fun sp => ?_
  cases sp with
  | rx | tx | scratch => exact freeBytes_length _ _
  | bank => exact List.length_replicate

/-- Settles O41: the elements with a value in R37 are those of `State.resetWith`, and the buffers are `resetMemory`'s. -/
theorem resetSetsEveryElement : Obligations.ResetSetsEveryElement := by
  intro s
  obtain ⟨hbus, hrx, htxLength, htxCount, henable, herror, hbank, hsnapshot, hseq, hbit, hbyte, hpoll, hresult, hdrive⟩ :=
    resetStateAsStated s.params
  exact ⟨s.resetAction, exec_rst s, rfl, hbus, hrx, htxLength, htxCount, henable, herror, hbank, hsnapshot, hseq, hbit, hbyte, hpoll,
    hresult, hdrive, resetMemory_wf s.params s.draws⟩

/-! ### A set error flag along a run (R267) -/

/-- No run without ClearError and Reset clears the flag. -/
theorem runOps_keeps_error {ops : List Instr} {s t : State} (hs : s.error = true) (hops : ∀ i ∈ ops, i ≠ .clr ∧ i ≠ .rst)
    (h : runOps ops s = .next t) : t.error = true := by
  refine runOps_keeps (P := fun u => u.error = true) (fun i hi u v hu hv => ?_) hs h
  obtain ⟨hclr, hrst⟩ := hops i hi
  exact exec_keeps_error hv hu hclr hrst

/-- Settles O53: the flag is still true at the end of the run, and QueryError answers it. -/
theorem stickyErrorSurvivesRuns : Obligations.StickyErrorSurvivesRuns := by
  intro ops s t hs hops hrun
  rw [exec_qerr, runOps_keeps_error hs hops hrun]

end Sys2Proof.Machine
